-- ==== Sys2Proof/Word.lean ====
section
/-!
DEFINITION. The word types of the machine (rules R6, R7 and the glossary of spec/00_scope.md):
byte, word, doubleword, quadword are 8, 16, 32 and 64 bits; bit 0 is the least significant bit.
-/

namespace Sys2Proof

/-- A byte: 8 bits. -/
abbrev Byte := BitVec 8

/-- A quadword: 64 bits, the width of an MMX register and of a linear address. -/
abbrev Quad := BitVec 64

/-- The 128-bit value of an XMM register. -/
abbrev XmmVal := BitVec 128

/-- The 256-bit value of a YMM register. -/
abbrev YmmVal := BitVec 256

end Sys2Proof
end

