-- ==== Sys2Proof/Config.lean ====
section
/-!
DEFINITION. What an implementation fixes (spec/00_scope.md section 4, spec/92_eei_decisions.md "Open
parameters") and the one free value of the model.

The parameters that a claim may wish to name as premises (`MODE`, `HAS_*`, `EN_*`, `TS`, `X87_PENDING`,
`AC_ENABLED`, `LA_BITS`, `SegBase`, `Access`) are carried by the machine's State, as rules R28 and R152
say ("a field or predicate of the launch state"); this file holds their types and the derived constants.
-/

namespace Sys2Proof

/-- `MODE` of rule R3: the two modes in which the eight forms are specified. -/
inductive Mode where
  /-- 64-bit mode. -/
  | m64
  /-- 32-bit protected mode, or compatibility mode with a 32-bit code segment. -/
  | m32
  deriving DecidableEq, Repr

/-- The operating mode that the control registers select (rule R28). The spec speaks of the first two
only; the others exist so that the state after reset (real-address mode, rule R32) can be written down. -/
inductive CpuMode where
  /-- `M64`. -/
  | long64
  /-- `M32`. -/
  | prot32
  /-- Real-address mode, CR0.PE = 0: not modelled (decision D1). -/
  | real
  /-- Virtual-8086 mode, EFLAGS.VM = 1: not modelled (decision D1). -/
  | virtual8086
  /-- Every other setting (16-bit code segments, CS.L without long mode): not modelled (decision D1). -/
  | other
  deriving DecidableEq, Repr

/-- The four CPUID feature flags of rule R4. -/
structure Features where
  /-- `HAS_MMX`. -/
  hasMmx : Bool
  /-- `HAS_SSE2`. -/
  hasSse2 : Bool
  /-- `HAS_AVX`. -/
  hasAvx : Bool
  /-- `HAS_AVX2`. -/
  hasAvx2 : Bool
  deriving DecidableEq, Repr

/-- `LA_BITS` of rule R48: the significant linear-address bits of the canonical check. -/
inductive LaBits where
  /-- 48 bits (4-level paging). -/
  | la48
  /-- 57 bits (5-level paging). -/
  | la57
  deriving DecidableEq, Repr

/-- The number of significant linear-address bits, 48 or 57 (rule R48, decision D12). -/
def LaBits.bits : LaBits → Nat
  | .la48 => 48
  | .la57 => 57

/-- `NVEC` of rule R22: the vector registers a program can name, 16 in `M64` and 8 in `M32`. -/
def Config.nvec : Mode → Nat
  | .m64 => 16
  | .m32 => 8

/-- `VLMAX` of rule R5, decision D3: 256 with AVX; without it no YMM register exists and the range
`VLMAX-1:128` is empty. -/
def Config.vlmax (f : Features) : Nat := if f.hasAvx then 256 else 128

/-- `WIDE_ATOMIC` of rule R50, decision D13. Nothing reads it: with one agent and constant memory the
atomicity of a wide read cannot be observed. -/
def Config.wideAtomic : Bool := false

/-- THE FREE VALUE of the model (rule R128 item 5, decision D15, U15; notes/assumptions/9.md): when an operand
addressed through SS violates both the canonical or limit rule (#SS(0)) and the 16-byte alignment rule
(#GP(0)), which of the two is reported is left open. `true` means #SS(0). It is applied to the state's
counter `openChoices` and to the operand's linear address; nothing constrains it. -/
opaque Config.reportsStackFault : Nat → Quad → Bool

end Sys2Proof
end

