-- ==== Sys2Proof/Syntax.lean ====
section
/-!
DEFINITION. The eight instruction forms as syntax: one constructor of `Instr` per row of
spec/opcode_table.json (rule R61), in the table's order.

A term of `Instr` keeps every choice the encoding leaves to the assembler (the order of the legacy prefixes,
the length of the VEX prefix, the REX and VEX bits that a form ignores), so that an instruction and its bytes
determine each other. Register numbers are already joined with their extension bits (rule R72), and a memory
operand is already split into the shapes of rules R73 and R76: the machine never looks at a ModRM byte.
-/

namespace Sys2Proof

/-- The six segment registers (rule R30). -/
inductive Seg where
  | es | cs | ss | ds | fs | gs
  deriving DecidableEq, Repr

/-- The legacy prefix bytes that may precede an admitted form (rules R63 and R66, decision D20). F0H, F2H
and F3H are not among them: no admitted form carries one. -/
inductive LegacyPrefix where
  /-- 66H, the mandatory prefix of the SSE2 forms. -/
  | opSize
  /-- 67H, the address-size prefix (rule R78). -/
  | addrSize
  /-- 26H, 2EH, 36H, 3EH, 64H or 65H, a segment override (rule R77). -/
  | seg (s : Seg)
  deriving DecidableEq, Repr

/-- The displacement that follows the ModRM and SIB bytes: `mod` = 00, 01 and 10 (rules R73 and R74). -/
inductive Disp where
  /-- No displacement byte, `mod` = 00. -/
  | none
  /-- One byte, `mod` = 01. -/
  | d8 (d : BitVec 8)
  /-- Four bytes, lowest first, `mod` = 10. -/
  | d32 (d : BitVec 32)
  deriving DecidableEq, Repr

/-- The shapes of a memory operand (rules R73, R75 and R76). A 4-bit register number is `B*8 + rm`,
`B*8 + base` or `X*8 + index`. -/
inductive MemOperand where
  /-- `rm` other than 100: base register and displacement. -/
  | base (b : BitVec 4) (disp : Disp)
  /-- `mod` = 00, `rm` = 101: displacement only in `M32`, RIP-relative in `M64`. -/
  | disp32 (d : BitVec 32)
  /-- `rm` = 100 with a base register; index number 4 means no index. -/
  | sib (scale : BitVec 2) (index base : BitVec 4) (disp : Disp)
  /-- `rm` = 100, `mod` = 00, SIB.base = 101: no base register, a disp32 follows the SIB byte. -/
  | sibNoBase (scale : BitVec 2) (index : BitVec 4) (d : BitVec 32)
  deriving DecidableEq, Repr

/-- The ModRM:r/m operand: a register (`mod` = 11) or memory (rule R70). `w` is the width of a register
number, 3 for the MMX file and 4 for the vector file (rule R72). -/
inductive Rm (w : Nat) where
  | reg (r : BitVec w)
  | mem (m : MemOperand)
  deriving DecidableEq, Repr

/-- The bits of a REX or three-byte VEX prefix that carry nothing for the form at hand: W always (rules R64
and R69), X when there is no SIB index, B when no register number takes it. A bit that the operands do use
is `false` here (`WellFormed`). -/
structure SpareBits where
  w : Bool
  x : Bool
  b : Bool
  deriving DecidableEq, Repr

/-- How a non-VEX form is spelled (rules R63 and R64): its legacy prefixes in their order, and its REX
prefix if it has one. -/
structure LegacyEnc where
  prefixes : List LegacyPrefix
  rex : Option SpareBits
  deriving DecidableEq, Repr

/-- How a VEX form is spelled (rules R66 to R68): its legacy prefixes, and whether the VEX prefix has two
bytes (`none`) or three. -/
structure VexEnc where
  prefixes : List LegacyPrefix
  vex3 : Option SpareBits
  deriving DecidableEq, Repr

/-- The eight forms of rule R61. `d` is the ModRM:reg operand (operand 1), `v` the VEX.vvvv operand and `src`
the ModRM:r/m operand (rule R62). -/
inductive Instr where
  /-- Row 1, `PACKSSWB mm1, mm2/m64` (rule R100). -/
  | packsswbMm (e : LegacyEnc) (d : BitVec 3) (src : Rm 3)
  /-- Row 2, `PACKSSWB xmm1, xmm2/m128` (rule R105). -/
  | packsswbXmm (e : LegacyEnc) (d : BitVec 4) (src : Rm 4)
  /-- Row 3, `PACKSSDW mm1, mm2/m64` (rule R101). -/
  | packssdwMm (e : LegacyEnc) (d : BitVec 3) (src : Rm 3)
  /-- Row 4, `PACKSSDW xmm1, xmm2/m128` (rule R106). -/
  | packssdwXmm (e : LegacyEnc) (d : BitVec 4) (src : Rm 4)
  /-- Row 5, `VPACKSSWB xmm1, xmm2, xmm3/m128` (rule R110). -/
  | vpacksswbXmm (e : VexEnc) (d v : BitVec 4) (src : Rm 4)
  /-- Row 6, `VPACKSSDW xmm1, xmm2, xmm3/m128` (rule R111). -/
  | vpackssdwXmm (e : VexEnc) (d v : BitVec 4) (src : Rm 4)
  /-- Row 7, `VPACKSSWB ymm1, ymm2, ymm3/m256` (rule R115). -/
  | vpacksswbYmm (e : VexEnc) (d v : BitVec 4) (src : Rm 4)
  /-- Row 8, `VPACKSSDW ymm1, ymm2, ymm3/m256` (rule R116). -/
  | vpackssdwYmm (e : VexEnc) (d v : BitVec 4) (src : Rm 4)
  deriving DecidableEq, Repr

/-- Why the decoder refuses a byte string: the spec gives it no meaning, neither execution nor #UD (rules
R80, R82 and R86). Refusing is safe: no claim can be made about a program that holds such bytes. -/
inductive DecodeRefusal where
  /-- A second 66H, 67H, LOCK or segment override (decision D20). -/
  | repeatedPrefix
  /-- F2H or F3H before any form (decision D20, conflict C13). -/
  | repPrefix
  /-- Bytes of another instruction, among them every opcode other than 63H and 6BH of map 0F, INC and DEC
  in `M32`, and a REX byte that does not stand immediately before 0FH (decisions D20 and D22). -/
  | notAForm
  /-- C4H or C5H in `M32` whose next byte has bits 7:6 other than 11: LES or LDS (rule R81). -/
  | lesOrLds
  /-- A VEX prefix in `M32` that names register 8 to 15 (decision D21). -/
  | vexHighRegister
  /-- A VEX prefix with another opcode map, `pp` or opcode byte (decision D22). -/
  | vexOther
  /-- An MMX form with REX.R = 1, or with REX.B = 1 and a register operand (decision D20). -/
  | mmxRexBits
  /-- A memory operand with 67H in `M32`: 16-bit addressing (rule R78, decision D20). -/
  | address16
  /-- More than 15 bytes (rule R79, decision D20). -/
  | tooLong
  deriving DecidableEq, Repr

end Sys2Proof
end

