-- ==== Sys2Proof/Decode.lean ====
section
/-!
DEFINITION. Decoding (spec/30_encoding.md, the procedure of rule R86, total on any byte string), the encoder
written from the same layouts (rules R63 to R70, R73, R76), and the length of an instruction (rule R79).
-/

namespace Sys2Proof

/-! ## Fields of bytes -/

/-- The `mod` field of a ModRM byte, the `scale` field of a SIB byte (rules R70 and R76). -/
def byteTop (b : Byte) : BitVec 2 := b.extractLsb' 6 2

/-- The `reg` field of a ModRM byte, the `index` field of a SIB byte. -/
def byteMid (b : Byte) : BitVec 3 := b.extractLsb' 3 3

/-- The `rm` field of a ModRM byte, the `base` field of a SIB byte. -/
def byteLow (b : Byte) : BitVec 3 := b.extractLsb' 0 3

/-- A register number from its extension bit and 3-bit field: `ext*8 + field`; a 3-bit file (MMX) has no
place for the extension bit (rule R72). -/
def regNumber (w : Nat) (ext : Bool) (field : BitVec 3) : BitVec w :=
  (BitVec.ofBool ext ++ field).setWidth w

/-- The prefix bytes of rule R63. -/
inductive PrefixByte where
  | legacy (p : LegacyPrefix)
  /-- F0H. -/
  | lock
  /-- F2H or F3H. -/
  | rep
  deriving DecidableEq, Repr

/-- The prefix a byte stands for, if any (rule R63). -/
def prefixOfByte (b : Byte) : Option PrefixByte :=
  if b = 0x66 then some (.legacy .opSize)
  else if b = 0x67 then some (.legacy .addrSize)
  else if b = 0x26 then some (.legacy (.seg .es))
  else if b = 0x2E then some (.legacy (.seg .cs))
  else if b = 0x36 then some (.legacy (.seg .ss))
  else if b = 0x3E then some (.legacy (.seg .ds))
  else if b = 0x64 then some (.legacy (.seg .fs))
  else if b = 0x65 then some (.legacy (.seg .gs))
  else if b = 0xF0 then some .lock
  else if b = 0xF2 ∨ b = 0xF3 then some .rep
  else none

/-- Two prefixes of one kind: each kind is admitted at most once, and all segment overrides are one kind
(rule R86). -/
def sameKind : LegacyPrefix → LegacyPrefix → Bool
  | .opSize, .opSize => true
  | .addrSize, .addrSize => true
  | .seg _, .seg _ => true
  | _, _ => false

/-! ## The operand bytes: ModRM tail, SIB, displacement (rules R70 to R76) -/

/-- A little-endian disp32 (rule R74); `none` when the bytes end too early. -/
def decodeDisp32 : List Byte → Option (BitVec 32 × List Byte)
  | b0 :: b1 :: b2 :: b3 :: rest => some (b3 ++ b2 ++ b1 ++ b0, rest)
  | _ => none

/-- The displacement that `mod` calls for (rule R73). -/
def decodeDisp (mod : BitVec 2) (bytes : List Byte) : Option (Disp × List Byte) :=
  if mod = 0 then some (.none, bytes)
  else if mod = 1 then
    match bytes with
    | [] => none
    | b :: rest => some (.d8 b, rest)
  else
    match decodeDisp32 bytes with
    | none => none
    | some (d, rest) => some (.d32 d, rest)

/-- The memory operand of a ModRM byte with `mod` other than 11 (rules R73 and R76), `x` and `b` being the
extension bits; `none` when the bytes end too early. -/
def decodeMem (x b : Bool) (mod : BitVec 2) (rm : BitVec 3) (bytes : List Byte) :
    Option (MemOperand × List Byte) :=
  if rm = 4 then
    match bytes with
    | [] => none
    | s :: rest =>
      if byteLow s = 5 ∧ mod = 0 then
        match decodeDisp32 rest with
        | none => none
        | some (d, rest') => some (.sibNoBase (byteTop s) (regNumber 4 x (byteMid s)) d, rest')
      else
        match decodeDisp mod rest with
        | none => none
        | some (disp, rest') =>
          some (.sib (byteTop s) (regNumber 4 x (byteMid s)) (regNumber 4 b (byteLow s)) disp, rest')
  else if rm = 5 ∧ mod = 0 then
    match decodeDisp32 bytes with
    | none => none
    | some (d, rest) => some (.disp32 d, rest)
  else
    match decodeDisp mod bytes with
    | none => none
    | some (disp, rest) => some (.base (regNumber 4 b rm) disp, rest)

/-- The ModRM:r/m operand (rules R70, R72 and R73). -/
def decodeRm (w : Nat) (x b : Bool) (mod : BitVec 2) (rm : BitVec 3) (bytes : List Byte) :
    Option (Rm w × List Byte) :=
  if mod = 3 then some (.reg (regNumber w b rm), bytes)
  else
    match decodeMem x b mod rm bytes with
    | none => none
    | some (m, rest) => some (.mem m, rest)

/-! ## Extension bits -/

/-- The logical (not inverted) bits of a REX or VEX prefix: W, R, X, B. -/
structure ExtBits where
  w : Bool
  r : Bool
  x : Bool
  b : Bool
  deriving DecidableEq, Repr

/-- No REX prefix: R = X = B = 0 (rule R64). -/
def noExt : ExtBits := ⟨false, false, false, false⟩

/-- Does the operand take the X bit? Only a SIB index does (rule R64). -/
def usesX {w : Nat} : Rm w → Bool
  | .mem (.sib _ _ _ _) => true
  | .mem (.sibNoBase _ _ _) => true
  | _ => false

/-- Does the operand take the B bit? A register operand and a base register do; a lone disp32, with or
without SIB, does not (rules R73 and R76). -/
def usesB {w : Nat} : Rm w → Bool
  | .reg _ => true
  | .mem (.base _ _) => true
  | .mem (.sib _ _ _ _) => true
  | _ => false

/-- The bits of `e` that the operand does not take. -/
def spareOf {w : Nat} (src : Rm w) (e : ExtBits) : SpareBits :=
  ⟨e.w, !usesX src && e.x, !usesB src && e.b⟩

/-- The X bit that the operand's register numbers call for. -/
def rmX {w : Nat} : Rm w → Bool
  | .mem (.sib _ index _ _) => index.getLsbD 3
  | .mem (.sibNoBase _ index _) => index.getLsbD 3
  | _ => false

/-- The B bit that the operand's register numbers call for (never one for a 3-bit register number). -/
def rmB {w : Nat} : Rm w → Bool
  | .reg r => r.getLsbD 3
  | .mem (.base b _) => b.getLsbD 3
  | .mem (.sib _ _ base _) => base.getLsbD 3
  | _ => false

/-! ## The decoder (rule R86) -/

/-- The outcome of decoding. `more` says that the bytes ended before the procedure knew the answer: the
fetch then supplies one more byte or the reason it cannot (rule R57). -/
inductive Decoded where
  /-- One of the eight forms, and the bytes after it. -/
  | form (i : Instr) (rest : List Byte)
  /-- The instruction raises #UD (rule R82). -/
  | ud
  /-- The spec gives the bytes no meaning (rule R80). -/
  | refuse (why : DecodeRefusal)
  /-- More bytes are needed. -/
  | more
  deriving DecidableEq, Repr

/-- What the prefix loop of rule R86 ends with. -/
inductive Scanned where
  | done (prefixes : List LegacyPrefix) (lock : Bool) (rest : List Byte)
  | refuse (why : DecodeRefusal)
  | more
  deriving DecidableEq, Repr

/-- The prefix loop of rule R86; `seen` are the prefixes so far, in their order. -/
def scanPrefixes (seen : List LegacyPrefix) (lock : Bool) : List Byte → Scanned
  | [] => .more
  | b :: rest =>
    match prefixOfByte b with
    | none => .done seen lock (b :: rest)
    | some .rep => .refuse .repPrefix
    | some .lock => if lock then .refuse .repeatedPrefix else scanPrefixes seen true rest
    | some (.legacy p) =>
      if seen.any (sameKind p) then .refuse .repeatedPrefix
      else scanPrefixes (seen ++ [p]) lock rest

/-- The two operations: opcode byte 63H packs words to bytes, 6BH doublewords to words (rule R61). -/
inductive PackOp where
  | wb
  | dw
  deriving DecidableEq, Repr

/-- The operation of an opcode byte. -/
def opOfByte (b : Byte) : Option PackOp :=
  if b = 0x63 then some .wb else if b = 0x6B then some .dw else none

/-- An MMX form, rows 1 and 3. -/
def mmInstr : PackOp → LegacyEnc → BitVec 3 → Rm 3 → Instr
  | .wb => .packsswbMm
  | .dw => .packssdwMm

/-- A legacy SSE form, rows 2 and 4. -/
def sseInstr : PackOp → LegacyEnc → BitVec 4 → Rm 4 → Instr
  | .wb => .packsswbXmm
  | .dw => .packssdwXmm

/-- A VEX form, rows 5 to 8; `l` is VEX.L. -/
def vexInstr (l : Bool) : PackOp → VexEnc → BitVec 4 → BitVec 4 → Rm 4 → Instr
  | .wb => if l then .vpacksswbYmm else .vpacksswbXmm
  | .dw => if l then .vpackssdwYmm else .vpackssdwXmm

/-- 16-bit addressing: a memory operand with 67H in `M32` (rule R78). -/
def address16 (m : Mode) (prefixes : List LegacyPrefix) (mod : BitVec 2) : Bool :=
  decide (m = .m32) && decide (mod ≠ 3) && decide (LegacyPrefix.addrSize ∈ prefixes)

/-- The ModRM byte and what follows it in a non-VEX form. `e` are the REX bits, `rex` says whether there is
a REX byte. -/
def decodeLegacyOperands (m : Mode) (prefixes : List LegacyPrefix) (rex : Bool) (e : ExtBits) (op : PackOp) :
    List Byte → Decoded
  | [] => .more
  | modrm :: rest =>
    let mod := byteTop modrm
    if LegacyPrefix.opSize ∈ prefixes then
      if address16 m prefixes mod then .refuse .address16
      else
        match decodeRm 4 e.x e.b mod (byteLow modrm) rest with
        | none => .more
        | some (src, rest') =>
          .form (sseInstr op ⟨prefixes, if rex then some (spareOf src e) else none⟩
            (regNumber 4 e.r (byteMid modrm)) src) rest'
    else if e.r || (e.b && decide (mod = 3)) then .refuse .mmxRexBits
    else if address16 m prefixes mod then .refuse .address16
    else
      match decodeRm 3 e.x e.b mod (byteLow modrm) rest with
      | none => .more
      | some (src, rest') =>
        .form (mmInstr op ⟨prefixes, if rex then some (spareOf src e) else none⟩
          (regNumber 3 e.r (byteMid modrm)) src) rest'

/-- A non-VEX form after the byte 0FH. -/
def decodeLegacy (m : Mode) (prefixes : List LegacyPrefix) (lock rex : Bool) (e : ExtBits) :
    List Byte → Decoded
  | [] => .more
  | ob :: rest =>
    match opOfByte ob with
    | none => .refuse .notAForm
    | some op => if lock then .ud else decodeLegacyOperands m prefixes rex e op rest

/-- The opcode byte, the ModRM byte and what follows in a VEX form. `three` says whether the prefix has
three bytes. -/
def decodeVexOperands (m : Mode) (prefixes : List LegacyPrefix) (three : Bool) (e : ExtBits) (v : BitVec 4)
    (l : Bool) : List Byte → Decoded
  | [] => .more
  | ob :: rest =>
    match opOfByte ob with
    | none => .refuse .vexOther
    | some op =>
      match rest with
      | [] => .more
      | modrm :: rest' =>
        let mod := byteTop modrm
        if address16 m prefixes mod then .refuse .address16
        else
          match decodeRm 4 e.x e.b mod (byteLow modrm) rest' with
          | none => .more
          | some (src, rest'') =>
            .form (vexInstr l op ⟨prefixes, if three then some (spareOf src e) else none⟩
              (regNumber 4 e.r (byteMid modrm)) v src) rest''

/-- The `vvvv` field, logical: the ones' complement of the stored bits 6:3 (rules R67 and R68). -/
def vexV (b : Byte) : BitVec 4 := ~~~(b.extractLsb' 3 4)

/-- The last VEX byte's `pp` field must be 01 (rule R69). -/
def vexPpOk (b : Byte) : Bool := decide (b.extractLsb' 0 2 = 1#2)

/-- A VEX form after the byte C5H (rule R67). -/
def decodeVex2 (m : Mode) (prefixes : List LegacyPrefix) : List Byte → Decoded
  | [] => .more
  | b1 :: rest =>
    if vexPpOk b1 then
      decodeVexOperands m prefixes false ⟨false, !b1.getLsbD 7, false, false⟩ (vexV b1) (b1.getLsbD 2) rest
    else .refuse .vexOther

/-- A VEX form after the byte C4H (rules R68 and R81). -/
def decodeVex3 (m : Mode) (prefixes : List LegacyPrefix) : List Byte → Decoded
  | [] => .more
  | [_] => .more
  | b1 :: b2 :: rest =>
    let e : ExtBits := ⟨b2.getLsbD 7, !b1.getLsbD 7, !b1.getLsbD 6, !b1.getLsbD 5⟩
    if m = .m32 ∧ (e.b = true ∨ (vexV b2).getLsbD 3 = true) then .refuse .vexHighRegister
    else if b1.extractLsb' 0 5 = 1#5 ∧ vexPpOk b2 = true then
      decodeVexOperands m prefixes true e (vexV b2) (b2.getLsbD 2) rest
    else .refuse .vexOther

/-- In `M32` the byte after C4H or C5H is a VEX byte only if its bits 7:6 are 11 (rule R81). -/
def isVexByte : Mode → Byte → Bool
  | .m64, _ => true
  | .m32, b => decide (byteTop b = 3)

/-- C4H and C5H: VEX, LES or LDS (rules R66 and R81); `blocked` says that 66H, LOCK or REX precedes. -/
def decodeVex (m : Mode) (prefixes : List LegacyPrefix) (blocked three : Bool) (bytes : List Byte) : Decoded :=
  match m, bytes with
  | .m32, [] => .more
  | .m32, b1 :: rest =>
    if isVexByte .m32 b1 then
      if blocked then .ud
      else if three then decodeVex3 .m32 prefixes (b1 :: rest)
      else decodeVex2 .m32 prefixes (b1 :: rest)
    else .refuse .lesOrLds
  | .m64, bytes =>
    if blocked then .ud
    else if three then decodeVex3 .m64 prefixes bytes
    else decodeVex2 .m64 prefixes bytes

/-- The opcode after the prefixes and the REX byte. -/
def decodeOpcode (m : Mode) (prefixes : List LegacyPrefix) (lock rex : Bool) (e : ExtBits) :
    List Byte → Decoded
  | [] => .more
  | b :: rest =>
    let blocked := decide (LegacyPrefix.opSize ∈ prefixes) || lock || rex
    if b = 0x0F then decodeLegacy m prefixes lock rex e rest
    else if b = 0xC4 then decodeVex m prefixes blocked true rest
    else if b = 0xC5 then decodeVex m prefixes blocked false rest
    else .refuse .notAForm

/-- The bits of a REX byte `0100WRXB` (rule R64). -/
def rexBits (b : Byte) : ExtBits := ⟨b.getLsbD 3, b.getLsbD 2, b.getLsbD 1, b.getLsbD 0⟩

/-- A REX byte: 40H to 4FH, in `M64` only (rule R64). -/
def isRex (m : Mode) (b : Byte) : Bool := decide (m = .m64) && decide (b.extractLsb' 4 4 = 4#4)

/-- The REX byte, if there is one, and the rest (rule R86). -/
def decodeAfterPrefixes (m : Mode) (prefixes : List LegacyPrefix) (lock : Bool) : List Byte → Decoded
  | [] => .more
  | b :: rest =>
    if isRex m b then decodeOpcode m prefixes lock true (rexBits b) rest
    else decodeOpcode m prefixes lock false noExt (b :: rest)

/-- Rule R86: the decoder, total on any byte string. -/
def decode (m : Mode) (bytes : List Byte) : Decoded :=
  match scanPrefixes [] false bytes with
  | .more => .more
  | .refuse why => .refuse why
  | .done prefixes lock rest => decodeAfterPrefixes m prefixes lock rest

/-! ## The encoder -/

/-- The byte of a prefix (rule R63). -/
def LegacyPrefix.byte : LegacyPrefix → Byte
  | .opSize => 0x66
  | .addrSize => 0x67
  | .seg .es => 0x26
  | .seg .cs => 0x2E
  | .seg .ss => 0x36
  | .seg .ds => 0x3E
  | .seg .fs => 0x64
  | .seg .gs => 0x65

/-- The opcode byte of an operation (rule R61). -/
def PackOp.byte : PackOp → Byte
  | .wb => 0x63
  | .dw => 0x6B

/-- A ModRM or SIB byte from its three fields (rules R70 and R76). -/
def fieldByte (top : BitVec 2) (mid low : BitVec 3) : Byte := top ++ mid ++ low

/-- A disp32, lowest byte first (rule R74). -/
def disp32Bytes (d : BitVec 32) : List Byte :=
  [d.extractLsb' 0 8, d.extractLsb' 8 8, d.extractLsb' 16 8, d.extractLsb' 24 8]

/-- The `mod` field of a displacement (rule R73). -/
def Disp.mod : Disp → BitVec 2
  | .none => 0
  | .d8 _ => 1
  | .d32 _ => 2

/-- The bytes of a displacement. -/
def Disp.bytes : Disp → List Byte
  | .none => []
  | .d8 d => [d]
  | .d32 d => disp32Bytes d

/-- The ModRM byte, the SIB byte and the displacement of an operand pair (rules R70, R73 and R76). -/
def encodeRm {w : Nat} (reg : BitVec 3) : Rm w → List Byte
  | .reg r => [fieldByte 3 reg (r.setWidth 3)]
  | .mem (.base b disp) => fieldByte disp.mod reg (b.setWidth 3) :: disp.bytes
  | .mem (.disp32 d) => fieldByte 0 reg 5 :: disp32Bytes d
  | .mem (.sib scale index base disp) =>
    fieldByte disp.mod reg 4 :: fieldByte scale (index.setWidth 3) (base.setWidth 3) :: disp.bytes
  | .mem (.sibNoBase scale index d) =>
    fieldByte 0 reg 4 :: fieldByte scale (index.setWidth 3) 5 :: disp32Bytes d

/-- The REX byte of a form, if it has one (rule R64). -/
def rexBytes {w w' : Nat} (d : BitVec w) (src : Rm w') : Option SpareBits → List Byte
  | none => []
  | some s =>
    [4#4 ++ BitVec.ofBool s.w ++ BitVec.ofBool (d.getLsbD 3) ++ BitVec.ofBool (rmX src || s.x) ++
      BitVec.ofBool (rmB src || s.b)]

/-- The VEX prefix of a form, two or three bytes (rules R67 and R68); R, X, B and vvvv are stored
inverted. -/
def vexBytes (d v : BitVec 4) (src : Rm 4) (l : Bool) : Option SpareBits → List Byte
  | none => [0xC5, BitVec.ofBool (!d.getLsbD 3) ++ ~~~v ++ BitVec.ofBool l ++ 1#2]
  | some s =>
    [0xC4,
      BitVec.ofBool (!d.getLsbD 3) ++ BitVec.ofBool (!(rmX src || s.x)) ++ BitVec.ofBool (!(rmB src || s.b))
        ++ 1#5,
      BitVec.ofBool s.w ++ ~~~v ++ BitVec.ofBool l ++ 1#2]

/-- A non-VEX form (rule R63). -/
def encodeLegacy {w : Nat} (op : PackOp) (e : LegacyEnc) (d : BitVec w) (src : Rm w) : List Byte :=
  e.prefixes.map LegacyPrefix.byte ++ rexBytes d src e.rex ++ [0x0F, op.byte] ++ encodeRm (d.setWidth 3) src

/-- A VEX form (rule R66). -/
def encodeVex (op : PackOp) (l : Bool) (e : VexEnc) (d v : BitVec 4) (src : Rm 4) : List Byte :=
  e.prefixes.map LegacyPrefix.byte ++ vexBytes d v src l e.vex3 ++ [op.byte] ++ encodeRm (d.setWidth 3) src

/-- The bytes of an instruction, the first at the lowest address. -/
def encode : Instr → List Byte
  | .packsswbMm e d src => encodeLegacy .wb e d src
  | .packsswbXmm e d src => encodeLegacy .wb e d src
  | .packssdwMm e d src => encodeLegacy .dw e d src
  | .packssdwXmm e d src => encodeLegacy .dw e d src
  | .vpacksswbXmm e d v src => encodeVex .wb false e d v src
  | .vpackssdwXmm e d v src => encodeVex .dw false e d v src
  | .vpacksswbYmm e d v src => encodeVex .wb true e d v src
  | .vpackssdwYmm e d v src => encodeVex .dw true e d v src

/-! ## Length (rule R79) -/

/-- The bytes of a displacement: 0, 1 or 4. -/
def Disp.length : Disp → Nat
  | .none => 0
  | .d8 _ => 1
  | .d32 _ => 4

/-- The ModRM byte, the SIB byte if present, and the displacement bytes. -/
def rmLength {w : Nat} : Rm w → Nat
  | .reg _ => 1
  | .mem (.base _ disp) => 1 + disp.length
  | .mem (.disp32 _) => 5
  | .mem (.sib _ _ _ disp) => 2 + disp.length
  | .mem (.sibNoBase _ _ _) => 6

/-- `ilen` of a non-VEX form: prefixes, REX, two opcode bytes, operand bytes. -/
def legacyLength {w : Nat} (e : LegacyEnc) (src : Rm w) : Nat :=
  e.prefixes.length + (if e.rex.isSome then 1 else 0) + 2 + rmLength src

/-- `ilen` of a VEX form: prefixes, two or three VEX bytes, the opcode byte, operand bytes. -/
def vexLength {w : Nat} (e : VexEnc) (src : Rm w) : Nat :=
  e.prefixes.length + (if e.vex3.isSome then 3 else 2) + 1 + rmLength src

/-- `ilen`, the length of an instruction in bytes (rule R79). -/
def Instr.ilen : Instr → Nat
  | .packsswbMm e _ src => legacyLength e src
  | .packsswbXmm e _ src => legacyLength e src
  | .packssdwMm e _ src => legacyLength e src
  | .packssdwXmm e _ src => legacyLength e src
  | .vpacksswbXmm e _ _ src => vexLength e src
  | .vpackssdwXmm e _ _ src => vexLength e src
  | .vpacksswbYmm e _ _ src => vexLength e src
  | .vpackssdwYmm e _ _ src => vexLength e src

/-! ## The opcode table's numbering -/

/-- The longest byte string a fetch looks at (rule R79). -/
def maxInstrBytes : Nat := 15

/-- The bytes, in memory order, of a table word of `n` bytes: the table reads a row's pattern, first byte
first, as ONE number whose bit 0 is its least significant bit, so the byte at the lowest address is the most
significant one (spec/98_reader.md; notes/assumptions/20.md). -/
def tableBytes : Nat → Nat → List Byte
  | 0, _ => []
  | n + 1, w => BitVec.ofNat 8 (w >>> (8 * n)) :: tableBytes n w

/-- The bytes of a table word with zeros after it, up to the longest instruction. -/
def tableWindow (nbits w : Nat) : List Byte :=
  (tableBytes (nbits / 8) w ++ List.replicate maxInstrBytes 0).take maxInstrBytes

/-- The instruction the decoder reads, in `M64`, from a row's word as spec/opcode_table.json numbers its
bits. -/
def decodeTableWord (nbits w : Nat) : Option Instr :=
  match decode .m64 (tableWindow nbits w) with
  | .form i _ => some i
  | _ => none

end Sys2Proof
end

