-- ==== Sys2Proof/Machine/State.lean ====
section
/-!
DEFINITION. The machine's state (spec/10_state.md), the reasons a step can stop, and the state after reset
(rule R32). INVENTORY.md lists every field with the rule that names it and its reset value.
-/

namespace Sys2Proof.Machine

/-- Linear memory as the platform's `Access` presents it (rule R46, decision D11): the mapped bytes, addresses
strictly rising. An address that is not listed holds no value: an access to it page-faults
(notes/assumptions/5.md). -/
abbrev Memory := List Host.Cell

/-- What an access is for (rules R46 and R57). -/
inductive AccessKind where
  /-- The memory operand of a form. -/
  | data
  /-- A byte of the instruction stream. -/
  | fetch
  deriving DecidableEq, Repr

/-- One access that `Access` answers with a fault although its bytes are mapped, or with other than the
default fault (rule R46): the access, the page-fault error code and the faulting linear address. -/
structure Denial where
  kind : AccessKind
  lin : Quad
  size : Nat
  code : BitVec 32
  addr : Quad
  deriving DecidableEq, Repr

/-- A segment register: its base and its limit (rules R30, R32 and R47), and the marks of its selector and descriptor by
which a segment of `M32` is not flat (rule R47; their form is the model's, notes/assumptions/15.md). -/
structure SegReg where
  base : Quad
  limit : BitVec 32
  /-- A null selector is loaded. -/
  nullSelector : Bool
  /-- The descriptor is of an expand-down data segment. -/
  expandDown : Bool
  /-- The descriptor's rights (present, type, privilege) allow a read through the segment. -/
  readable : Bool
  deriving DecidableEq, Repr

/-- A segment that bears none of the marks. -/
def SegReg.plain (base : Quad) (limit : BitVec 32) : SegReg := ⟨base, limit, false, false, true⟩

/-- The fields of the CS descriptor and the privilege level that bear on the forms (rules R28, R45, R135). -/
structure CodeSeg where
  /-- CS.L, 64-bit code. -/
  l : Bool
  /-- CS.D, 32-bit code when L = 0. -/
  d : Bool
  /-- The current privilege level. -/
  cpl : BitVec 2
  deriving DecidableEq, Repr

/-- `size` bytes of the linear address space from `base` on. -/
structure Span where
  base : Quad
  size : Nat
  deriving DecidableEq, Repr

/-- Does the span hold the address? -/
def Span.covers (sp : Span) (a : Quad) : Bool := decide ((a - sp.base).toNat < sp.size)

/-- What the premises `L_mem`, `L_solo` and `L_quiet` of rule R152 speak of outside the processor. No step reads it:
where a premise fails the spec makes a model silent, not refusing (notes/assumptions/17.md). -/
structure Platform where
  /-- What is not ordinary write-back memory (rule R49, `L_mem`). -/
  devices : List Span
  /-- The bytes that another agent writes during the run (rule R51, `L_solo`). -/
  foreign : List Span
  /-- No interrupt arrives, or each handler returns with every register and `TS` restored (rule R133, `L_quiet`). -/
  handlersRestore : Bool
  deriving DecidableEq, Repr

/-- The state of one logical processor and the memory it sees. -/
structure State where
  /-- `pc` (rule R25): RIP in `M64`; in `M32` EIP is its low 32 bits. -/
  rip : Quad
  /-- MM0 to MM7 (rule R20): bits 63:0 of the x87 data registers (rule R27). -/
  mm : Vector Quad 8
  /-- YMM0 to YMM15 (rules R21 and R22); XMM`i` is bits 127:0. -/
  ymm : Vector YmmVal 16
  /-- The general registers (rule R24); in `M32` the first eight's low 32 bits. -/
  gpr : Vector Quad 16
  /-- EFLAGS (rules R26 and R28). -/
  eflags : BitVec 32
  /-- MXCSR (rules R26 and R32). -/
  mxcsr : BitVec 32
  /-- The x87 status word: TOP in bits 13:11, ES in bit 7 (rules R27 and R28). -/
  fsw : BitVec 16
  /-- The x87 tag word, two bits a register (rule R27). -/
  ftw : BitVec 16
  /-- Bits 79:64 (sign and exponent) of the x87 data registers (rule R27). -/
  x87hi : Vector (BitVec 16) 8
  /-- CR0 (rule R28). -/
  cr0 : Quad
  /-- CR2, the page-fault address register (rules R46 and R120). -/
  cr2 : Quad
  /-- CR4 (rule R28). -/
  cr4 : Quad
  /-- XCR0 (rule R28). -/
  xcr0 : Quad
  /-- IA32_EFER (rule R28). -/
  efer : Quad
  /-- CS.L, CS.D and CPL (rule R28). -/
  code : CodeSeg
  /-- ES, CS, SS, DS, FS, GS, numbered 0 to 5 (rule R30). -/
  segs : Vector SegReg 6
  /-- A breakpoint of the debug registers is armed (rule R136, premise `L_quiet` of rule R152). -/
  breakpointsArmed : Bool
  /-- The CPUID feature flags (rule R4). -/
  features : Features
  /-- `LA_BITS` (rule R48). -/
  laBits : LaBits
  /-- The platform reports the I/D bit in the error code of a fetch fault (rule R57). -/
  reportsFetch : Bool
  /-- The accesses that `Access` denies (rule R46). -/
  denials : List Denial
  /-- The bytes that `Access` maps (rule R46). -/
  mem : Memory
  /-- Devices, other agents and interrupt handlers, as the launch premises of rule R152 see them. -/
  platform : Platform
  /-- THE MODEL'S OWN field, not the spec's: the counter to which the free value
  `Config.reportsStackFault` is applied (notes/assumptions/9.md). -/
  openChoices : Nat
  deriving DecidableEq, Repr

/-- The exceptions a form can raise (rule R120). #AC(0), the seventh of that table, is raised by no form of
this model: an unaligned access under alignment checking is refused (rule R45, decision D10). -/
inductive Exception where
  /-- #UD, invalid opcode: raised by the checks of rule R121 and by the decoder (rule R82). -/
  | ud
  /-- #NM, device not available: raised when CR0.TS = 1 (rule R122). -/
  | nm
  /-- #SS(0), stack-segment fault: raised for a memory operand through SS (rule R124). -/
  | ss
  /-- #GP(0), general protection: raised for a memory operand or a fetch (rule R125). -/
  | gp
  /-- #PF(code), page fault: raised when `Access` faults (rule R126); `addr` is what CR2 would hold. -/
  | pf (code : BitVec 32) (addr : Quad)
  /-- #MF, pending x87 exception: raised by the MMX forms (rule R123). -/
  | mf
  deriving DecidableEq, Repr

/-- The fault outcome of rule R131 and decision D14: the run ends, and the outcome records the exception, its
error code, for #PF the faulting linear address, and the state, unchanged (rule R130). Who raises each is
said at `Exception`. All six are safe: delivery through the interrupt descriptor table is outside the spec's
scope (spec/00_scope.md section 3), so no step follows and nothing is claimed of the handler. -/
inductive Fault where
  /-- #UD; raised by `Machine.raise`. Safe. -/
  | ud (unchanged : State)
  /-- #NM; raised by `Machine.raise`. Safe. -/
  | nm (unchanged : State)
  /-- #SS(0); raised by `Machine.raise`. Safe. -/
  | ss (unchanged : State)
  /-- #GP(0); raised by `Machine.raise`. Safe. -/
  | gp (unchanged : State)
  /-- #PF(code) at a linear address; raised by `Machine.raise`. Safe. -/
  | pf (code : BitVec 32) (addr : Quad) (unchanged : State)
  /-- #MF; raised by `Machine.raise`. Safe. -/
  | mf (unchanged : State)
  deriving DecidableEq, Repr

/-- The refusals: the spec gives no meaning, or its decisions tell a model to give none. -/
inductive Refusal where
  /-- Raised by `exec` for an instruction whose meaning is not written yet. Safe. (No arm of `exec` is such
  an arm now.) -/
  | notModelled (mnemonic : String)
  /-- Raised when the machine is in neither `M64` nor `M32` (decision D1, premise `L_mode` of R152). Safe. -/
  | modeNotModelled (mode : CpuMode)
  /-- Raised in `M32` when a segment is not flat (rule R47, premise `L_flat` of R152). Safe. -/
  | segmentsNotFlat
  /-- Raised when EFLAGS.TF = 1 or a breakpoint is armed (rule R136, premise `L_quiet` of R152). Safe. -/
  | debugEventArmed
  /-- Raised for an unaligned memory operand under alignment checking (rule R45, decision D10). Safe. -/
  | unalignedUnderAlignmentCheck
  /-- Raised for a memory operand with 16-bit addressing (rule R78, decision D20). Safe. -/
  | address16
  /-- Raised by the fetch when the decoder refuses the bytes (rule R80, decision D22). Safe. -/
  | notDecoded (why : DecodeRefusal)
  /-- Raised by the fetch in `M32` when the instruction's own bytes pass FFFFFFFFH (rule R57, decision D6).
  Safe. -/
  | fetchPastTop
  deriving DecidableEq, Repr

/-- Why an instruction ends without a next state: `raise` and `refuse` of the spec's pseudocode. -/
inductive Stop where
  | raise (x : Exception)
  | refuse (r : Refusal)
  deriving DecidableEq, Repr

/-- The state after power-up or RESET (the table of rule R32: real-address mode, the SSE and AVX enables
off). What the table does not give is named in notes/assumptions/1.md to 4.md. Memory lists nothing. -/
def State.reset : State where
  rip := 0xFFF0
  mm := Vector.replicate 8 0
  ymm := Vector.replicate 16 0
  gpr := Vector.replicate 16 0
  eflags := 0x00000002
  mxcsr := 0x1F80
  fsw := 0
  ftw := 0x5555
  x87hi := Vector.replicate 8 0
  cr0 := 0x60000010
  cr2 := 0
  cr4 := 0
  xcr0 := 1
  efer := 0
  code := ⟨false, false, 0⟩
  segs := #v[.plain 0 0xFFFF, .plain 0xFFFF0000 0xFFFF, .plain 0 0xFFFF, .plain 0 0xFFFF, .plain 0 0xFFFF,
    .plain 0 0xFFFF]
  breakpointsArmed := false
  features := ⟨true, true, true, true⟩
  laBits := .la48
  reportsFetch := false
  denials := []
  mem := []
  platform := ⟨[], [], true⟩
  openChoices := 0

end Sys2Proof.Machine
end

