-- ==== Sys2Proof/Machine/Flags.lean ====
section
/-!
DEFINITION. Flags and control bits. No form writes a status flag (rule R26): there is no flag computation.
What stands here are the bits that gate the forms (rule R28), the Boolean parameters they are folded into,
the mode they select, and the places where software reads the feature flags (rule R29).
-/

namespace Sys2Proof.Machine

/-- CR0.PE, bit 0. -/
def State.cr0PE (s : State) : Bool := s.cr0.getLsbD 0
/-- CR0.EM, bit 2. -/
def State.cr0EM (s : State) : Bool := s.cr0.getLsbD 2
/-- CR0.TS, bit 3: the parameter `TS`. -/
def State.ts (s : State) : Bool := s.cr0.getLsbD 3
/-- CR0.AM, bit 18. -/
def State.cr0AM (s : State) : Bool := s.cr0.getLsbD 18
/-- CR4.OSFXSR, bit 9. -/
def State.osfxsr (s : State) : Bool := s.cr4.getLsbD 9
/-- CR4.OSXSAVE, bit 18. -/
def State.osxsave (s : State) : Bool := s.cr4.getLsbD 18
/-- EFLAGS.TF, bit 8 (rules R136 and R152; the place of the bit: notes/assumptions/2.md). -/
def State.tf (s : State) : Bool := s.eflags.getLsbD 8
/-- EFLAGS.VM, bit 17. -/
def State.vm (s : State) : Bool := s.eflags.getLsbD 17
/-- EFLAGS.AC, bit 18. -/
def State.ac (s : State) : Bool := s.eflags.getLsbD 18
/-- IA32_EFER.LMA, bit 10. -/
def State.lma (s : State) : Bool := s.efer.getLsbD 10
/-- ES of the x87 status word, bit 7: the parameter `X87_PENDING`. -/
def State.x87Pending (s : State) : Bool := s.fsw.getLsbD 7

/-- `EN_MMX = (CR0.EM = 0)`. -/
def State.enMmx (s : State) : Bool := !s.cr0EM
/-- `EN_SSE = (CR0.EM = 0 and CR4.OSFXSR = 1)`. -/
def State.enSse (s : State) : Bool := !s.cr0EM && s.osfxsr
/-- `EN_AVX = (CR4.OSXSAVE = 1 and XCR0[2:1] = 11B)`. -/
def State.enAvx (s : State) : Bool := s.osxsave && decide (s.xcr0.extractLsb' 1 2 = 3#2)
/-- `AC_ENABLED = (CR0.AM = 1 and EFLAGS.AC = 1 and CPL = 3)`. -/
def State.acEnabled (s : State) : Bool := s.cr0AM && s.ac && decide (s.code.cpl = 3)

/-- The mode that CR0.PE, EFLAGS.VM, IA32_EFER.LMA, CS.L and CS.D select (rule R28). -/
def State.cpuMode (s : State) : CpuMode :=
  if !s.cr0PE then .real
  else if s.vm then .virtual8086
  else if s.code.l then (if s.lma then .long64 else .other)
  else if s.code.d then .prot32
  else .other

/-- The bases of ES, CS, SS and DS are 0 and all limits are 4 GiB (rule R47, premise `L_flat` of rule R152). -/
def State.flatSpans (s : State) : Bool :=
  decide (s.segs[0].base = 0) && decide (s.segs[1].base = 0) && decide (s.segs[2].base = 0) &&
    decide (s.segs[3].base = 0) && s.segs.toList.all (fun r => decide (r.limit = 0xFFFFFFFF))

/-- No segment holds a null selector, expands down or forbids a read (rule R47). -/
def State.plainSegs (s : State) : Bool :=
  s.segs.toList.all (fun r => !r.nullSelector && !r.expandDown && r.readable)

/-- The flat segments of `M32` (rule R47); every other launch state of `M32` is refused. -/
def State.flat (s : State) : Bool := s.flatSpans && s.plainSegs

/-- `MODE` (rule R3), or why a model of this spec does not speak of the state: the premises `L_mode`,
`L_quiet` and `L_flat` of rule R152. -/
def State.runMode (s : State) : Except Refusal Mode :=
  match s.cpuMode with
  | .long64 => if s.tf || s.breakpointsArmed then .error .debugEventArmed else .ok .m64
  | .prot32 =>
    if s.tf || s.breakpointsArmed then .error .debugEventArmed
    else if s.flat then .ok .m32 else .error .segmentsNotFlat
  | mode => .error (.modeNotModelled mode)

/-- The CPUID bits of rule R29: leaf 01H in EDX and ECX, leaf 07H in EBX. -/
inductive CpuidBit where
  | leaf1Edx (bit : Nat)
  | leaf1Ecx (bit : Nat)
  | leaf7Ebx (bit : Nat)
  deriving DecidableEq, Repr

/-- What software reads in a CPUID bit, for the bits that rule R29 names. -/
def State.cpuid (s : State) : CpuidBit → Option Bool
  | .leaf1Edx 23 => some s.features.hasMmx
  | .leaf1Edx 26 => some s.features.hasSse2
  | .leaf1Ecx 28 => some s.features.hasAvx
  | .leaf1Ecx 27 => some s.osxsave
  | .leaf7Ebx 5 => some s.features.hasAvx2
  | _ => none

end Sys2Proof.Machine
end

