-- ==== Sys2Proof/Machine/Ops.lean ====
section
/-!
DEFINITION. The named operations over memory and registers: reading and loading memory, `Access` and
`MemRead` (spec/20_memory.md), the register files (spec/10_state.md), the instruction pointer, raising an
exception (spec/60_exceptions.md) and the checks that come before an instruction's operands (rule R121 to
R123). There is no return from exception: IRET is outside the spec's scope (rule R132).
-/

namespace Sys2Proof.Machine

/-! ## Memory as data -/

/-- The byte at an address; `none` where nothing is mapped. -/
def Memory.read? : Memory → Nat → Option Byte
  | [], _ => none
  | (k, b) :: rest, a => if a = k then some b else if a < k then none else Memory.read? rest a

/-- Is every address of the list above `lo`, and do they rise strictly? -/
def Memory.risesFrom : Nat → Memory → Bool
  | _, [] => true
  | lo, (k, _) :: rest => decide (lo ≤ k) && Memory.risesFrom (k + 1) rest

/-- The canonical form: addresses strictly rising and below 2^64. No listed byte is one that an unlisted
address reads as, since an unlisted address has no value. -/
def Memory.wf (m : Memory) : Bool := m.risesFrom 0 && m.all (fun c => decide (c.1 < 2 ^ 64))

/-- Map the byte `b` at the address `a`. No form writes memory (rule R41): only loading a program does. -/
def Memory.set : Memory → Quad → Byte → Memory
  | [], a, b => [(a.toNat, b)]
  | (k, c) :: rest, a, b =>
    if a.toNat < k then (a.toNat, b) :: (k, c) :: rest
    else if a.toNat = k then (k, b) :: rest
    else (k, c) :: Memory.set rest a b

/-- Map the bytes of a list from the address `a` upwards, modulo 2^64. -/
def Memory.load : Memory → Quad → List Byte → Memory
  | m, _, [] => m
  | m, a, b :: bs => (m.set a b).load (a + 1) bs

/-- Map `n` bytes from `a` upwards as zero, but for those mapped already. -/
def Memory.fill : Memory → Quad → Nat → Memory
  | m, _, 0 => m
  | m, a, n + 1 =>
    match m.read? a.toNat with
    | some _ => m.fill (a + 1) n
    | none => (m.set a 0).fill (a + 1) n

/-- The value of an operand's bytes, little-endian: byte `k` is bits `8k+7:8k` (rule R42). -/
def leValue (w : Nat) : List Byte → BitVec w
  | [] => 0
  | b :: bs => (leValue w bs <<< 8) ||| b.setWidth w

/-! ## Translation and protection -/

/-- `trunc_W` of an address, `W` = 64 or 32, as a 64-bit value (rules R25 and R43). -/
def truncAddr : Mode → Quad → Quad
  | .m64, a => a
  | .m32, a => (a.setWidth 32).setWidth 64

/-- Byte `k` of an access at `lin`; in `M32` linear addresses have 32 bits. -/
def byteAddr (m : Mode) (lin : Quad) (k : Nat) : Quad := truncAddr m (lin + BitVec.ofNat 64 k)

/-- A canonical address: bits 63 to `LA_BITS-1` all equal (rule R48). The address is not wrapped: one of
2^64 or more is not canonical. -/
def canonical (la : LaBits) (a : Nat) : Bool :=
  decide (a < 2 ^ (la.bits - 1)) || (decide (2 ^ 64 - 2 ^ (la.bits - 1) ≤ a) && decide (a < 2 ^ 64))

/-- `Canonical(lin, n)`: every byte of the operand, computed without wrap, is canonical (rule R48). -/
def canonicalRange (la : LaBits) (lin : Quad) (n : Nat) : Bool :=
  (List.range n).all (fun k => canonical la (lin.toNat + k))

/-- The error code of a fault on a byte that is not mapped (rule R46): P = 0, W/R = 0, U/S set at privilege
level 3, and for a fetch the I/D bit when the platform reports it (rule R57). -/
def notPresentCode (s : State) (kind : AccessKind) : BitVec 32 :=
  (if s.code.cpl = 3 then 4 else 0) ||| (if kind = .fetch ∧ s.reportsFetch = true then 0x10 else 0)

/-- A page fault as `Access` reports it: the error code and the faulting linear address. -/
abbrev PageFault := BitVec 32 × Quad

/-- The bytes at the addresses of a list, or the first of them that is not mapped. -/
def readBytes (mem : Memory) : List Quad → Except Quad (List Byte)
  | [] => .ok []
  | a :: as =>
    match mem.read? a.toNat with
    | none => .error a
    | some b =>
      match readBytes mem as with
      | .error x => .error x
      | .ok bs => .ok (b :: bs)

/-- The addresses of the `n` bytes of an access. -/
def accessAddrs (m : Mode) (lin : Quad) (n : Nat) : List Quad := (List.range n).map (byteAddr m lin)

/-- `Access(lin, n)` of rule R46: the listed denial if there is one, else the bytes, else a not-present fault
at the lowest byte that is not mapped. -/
def access (s : State) (m : Mode) (kind : AccessKind) (lin : Quad) (n : Nat) : Except PageFault (List Byte) :=
  match s.denials.find? (fun d => decide (d.kind = kind ∧ d.lin = lin ∧ d.size = n)) with
  | some d => .error (d.code, d.addr)
  | none =>
    match readBytes s.mem (accessAddrs m lin n) with
    | .error a => .error (notPresentCode s kind, a)
    | .ok bs => .ok bs

/-! ## Segmentation and the read primitive -/

/-- `SegBase(seg)` of rule R47: 0 but for FS and GS, whose bases have the mode's width. -/
def segBase (s : State) (m : Mode) : Seg → Quad
  | .fs => truncAddr m s.segs[4].base
  | .gs => truncAddr m s.segs[5].base
  | _ => 0

/-- `SegLimitOK(seg, ea, n)` of rule R47. -/
def segLimitOk : Mode → Quad → Nat → Bool
  | .m64, _, _ => true
  | .m32, ea, n => decide (ea.toNat + n ≤ 2 ^ 32)

/-- The linear address of a memory operand (rule R43 step 1). -/
def linearAddr (s : State) (m : Mode) (seg : Seg) (ea : Quad) : Quad := truncAddr m (segBase s m seg + ea)

/-- The segment or canonical violation of rule R43 steps 2 and 3. -/
def segmentViolation (s : State) (m : Mode) (seg : Seg) (ea : Quad) (n : Nat) : Bool :=
  !segLimitOk m ea n || (decide (m = .m64) && !canonicalRange s.laBits (linearAddr s m seg ea) n)

/-- The alignment violation of rule R43 step 4. -/
def alignViolation (s : State) (m : Mode) (seg : Seg) (ea : Quad) (align16 : Bool) : Bool :=
  align16 && decide ((linearAddr s m seg ea).toNat % 16 ≠ 0)

/-- Steps 2 to 4 of rule R43. When a violation through SS comes with a misalignment, which of #SS(0) and
#GP(0) is reported is open (rule R128 item 5): the free value decides. -/
def operandFault (s : State) (m : Mode) (seg : Seg) (ea : Quad) (n : Nat) (align16 : Bool) : Option Exception :=
  if segmentViolation s m seg ea n then
    if seg = .ss then
      if alignViolation s m seg ea align16 then
        if Config.reportsStackFault s.openChoices (linearAddr s m seg ea) then some .ss else some .gp
      else some .ss
    else some .gp
  else if alignViolation s m seg ea align16 then some .gp
  else none

/-- `MemRead(seg, ea, n, align16)` of rule R43, as the list of its bytes. -/
def memReadBytes (s : State) (m : Mode) (seg : Seg) (ea : Quad) (n : Nat) (align16 : Bool) :
    Except Stop (List Byte) :=
  match operandFault s m seg ea n align16 with
  | some x => .error (.raise x)
  | none =>
    if s.acEnabled && decide ((linearAddr s m seg ea).toNat % n ≠ 0) then
      .error (.refuse .unalignedUnderAlignmentCheck)
    else
      match access s m .data (linearAddr s m seg ea) n with
      | .error (code, addr) => .error (.raise (.pf code addr))
      | .ok bs => .ok bs

/-- `MemRead` as a value of `8n` bits (rules R42 and R43). -/
def memRead (s : State) (m : Mode) (seg : Seg) (ea : Quad) (n : Nat) (align16 : Bool) :
    Except Stop (BitVec (8 * n)) :=
  match memReadBytes s m seg ea n align16 with
  | .error e => .error e
  | .ok bs => .ok (leValue (8 * n) bs)

/-! ## Registers -/

/-- `mm[i]` (rule R20). -/
def State.readMm (s : State) (i : BitVec 3) : Quad := s.mm[i.toNat]'i.isLt

/-- `ymm[i]` (rule R21). -/
def State.readYmm (s : State) (i : BitVec 4) : YmmVal := s.ymm[i.toNat]'i.isLt

/-- `xmm[i] = ymm[i][127:0]` (rule R21). -/
def State.readXmm (s : State) (i : BitVec 4) : XmmVal := (s.readYmm i).extractLsb' 0 128

/-- `gpr[i]`, full width (rule R24). -/
def State.readGpr (s : State) (i : BitVec 4) : Quad := s.gpr[i.toNat]'i.isLt

/-- The 80-bit x87 data register that MM`i` is the significand of (rule R27). -/
def State.readX87 (s : State) (i : BitVec 3) : BitVec 80 := s.x87hi[i.toNat]'i.isLt ++ s.readMm i

/-- `mm[i] <- v`, with what an MMX form does to the x87 state when it completes (rule R27): every tag valid,
top-of-stack 0, bits 79:64 of the register written all ones. -/
def State.writeMm (s : State) (i : BitVec 3) (v : Quad) : State :=
  { s with
    mm := s.mm.set i.toNat v i.isLt
    x87hi := s.x87hi.set i.toNat 0xFFFF i.isLt
    ftw := 0
    fsw := s.fsw &&& 0xC7FF }

/-- `ymm[i] <- v` (rule R23, VEX.256). -/
def State.writeYmm (s : State) (i : BitVec 4) (v : YmmVal) : State :=
  { s with ymm := s.ymm.set i.toNat v i.isLt }

/-- `xmm[i] <- v`, bits 255:128 unchanged (rule R23, legacy SSE). -/
def State.writeXmm (s : State) (i : BitVec 4) (v : XmmVal) : State :=
  s.writeYmm i ((s.readYmm i).extractLsb' 128 128 ++ v)

/-- `ymm[i] <- zext_256(v)` (rule R23, VEX.128). -/
def State.writeXmmZeroUpper (s : State) (i : BitVec 4) (v : XmmVal) : State :=
  s.writeYmm i (v.setWidth 256)

/-- `pc <- trunc_W(pc + ilen)` (rule R25). The free value's counter moves with every completed
instruction (notes/assumptions/9.md). -/
def State.retire (s : State) (m : Mode) (ilen : Nat) : State :=
  { s with
    rip := truncAddr m (s.rip + BitVec.ofNat 64 ilen)
    openChoices := s.openChoices + 1 }

/-! ## Raising an exception -/

/-- TAKING AN EXCEPTION (rules R130 and R131, decision D14): the run ends in the fault outcome that records
the exception and the unchanged state. -/
def raise (x : Exception) (s : State) : Fault :=
  match x with
  | .ud => .ud s
  | .nm => .nm s
  | .ss => .ss s
  | .gp => .gp s
  | .pf code addr => .pf code addr s
  | .mf => .mf s

/-- The vector number of a fault (rule R120). -/
def Fault.vector : Fault → Nat
  | .ud _ => 6
  | .nm _ => 7
  | .ss _ => 12
  | .gp _ => 13
  | .pf _ _ _ => 14
  | .mf _ => 16

/-- The error code of a fault, if it has one (rule R120). -/
def Fault.errorCode : Fault → Option (BitVec 32)
  | .ss _ => some 0
  | .gp _ => some 0
  | .pf code _ _ => some code
  | _ => none

/-- The state a fault records (rule R131). -/
def Fault.state : Fault → State
  | .ud s => s
  | .nm s => s
  | .ss s => s
  | .gp s => s
  | .pf _ _ s => s
  | .mf s => s

/-- The outcome of an instruction that began in `s`. -/
def finish (s : State) : Except Stop State → Host.Outcome State Fault Refusal
  | .ok t => .next t
  | .error (.raise x) => .fault (raise x s)
  | .error (.refuse r) => .refused r

/-! ## The checks before the operands -/

/-- The four encoding classes (rule R61). -/
inductive FormClass where
  | mmx
  | sse2
  | vex128
  | vex256
  deriving DecidableEq, Repr

/-- The class's CPUID feature flag (rule R4; for VEX.256 this is also the source's "#UD If VEX.L = 1", conflict
C1). -/
def FormClass.hasFlag (c : FormClass) (f : Features) : Bool :=
  match c with
  | .mmx => f.hasMmx
  | .sse2 => f.hasSse2
  | .vex128 => f.hasAvx
  | .vex256 => f.hasAvx2

/-- The class's operating-system enable (rule R121 row (c)). -/
def FormClass.enabled (c : FormClass) (s : State) : Bool :=
  match c with
  | .mmx => s.enMmx
  | .sse2 => s.enSse
  | .vex128 => s.enAvx
  | .vex256 => s.enAvx

/-- Is the class encoded with a VEX prefix? -/
def FormClass.isVex : FormClass → Bool
  | .mmx => false
  | .sse2 => false
  | .vex128 => true
  | .vex256 => true

/-- The mode in which a form runs, or why it does not: a VEX form in real-address or virtual-8086 mode raises
#UD (rule R121 row (f)); every other state outside the model is refused (rule R152). -/
def admitMode (c : FormClass) (s : State) : Except Stop Mode :=
  match s.runMode with
  | .ok m => .ok m
  | .error r =>
    if c.isVex && (decide (s.cpuMode = .real) || decide (s.cpuMode = .virtual8086)) then .error (.raise .ud)
    else .error (.refuse r)

/-- The exception of steps 1 to 3 of rule R96, in the order of rule R128: #UD (rule R121 rows (a) to (c)), #NM
(rule R122), #MF (rule R123). Rows (d) and (e) are the decoder's. -/
def formException (c : FormClass) (s : State) : Option Exception :=
  if !c.hasFlag s.features || !c.enabled s then some .ud
  else if s.ts then some .nm
  else if decide (c = .mmx) && s.x87Pending then some .mf
  else none

/-- Steps 1 to 3 of rule R96. -/
def admitForm (c : FormClass) (s : State) : Except Stop Mode :=
  match admitMode c s with
  | .error e => .error e
  | .ok m =>
    match formException c s with
    | some x => .error (.raise x)
    | none => .ok m

end Sys2Proof.Machine
end

