-- ==== Sys2Proof/Machine/Operands.lean ====
section
/-!
DEFINITION. Every operand form: the address size, the effective address and the segment of a memory operand
(rules R73 to R78), and reading the ModRM:r/m operand (step 4 of rule R96).
-/

namespace Sys2Proof.Machine

/-- The segment-override prefix, if there is one (rule R77). -/
def segOverride : List LegacyPrefix → Option Seg
  | [] => none
  | .seg s :: _ => some s
  | _ :: ps => segOverride ps

/-- The address sizes that the forms use (rule R78). -/
inductive AddrSize where
  | a32
  | a64
  deriving DecidableEq, Repr

/-- The address size: 64 in `M64`, 32 with 67H; 32 in `M32`; with 67H in `M32` it would be 16, which is left
out (rule R78, decision D20). -/
def addrSize (m : Mode) (prefixes : List LegacyPrefix) : Option AddrSize :=
  match m, decide (LegacyPrefix.addrSize ∈ prefixes) with
  | .m64, false => some .a64
  | .m64, true => some .a32
  | .m32, false => some .a32
  | .m32, true => none

/-- `trunc_A`, the result as a 64-bit value (rule R73). -/
def truncSize : AddrSize → Quad → Quad
  | .a64, a => a
  | .a32, a => (a.setWidth 32).setWidth 64

/-- `gpr[i]` read at the address size (rules R24 and R73). -/
def readAddrReg (s : State) (a : AddrSize) (i : BitVec 4) : Quad := truncSize a (s.readGpr i)

/-- The sign-extended displacement (rule R74). -/
def dispValue : Disp → Quad
  | .none => 0
  | .d8 d => d.signExtend 64
  | .d32 d => d.signExtend 64

/-- `indexpart` of rule R76: register number 4 means no index. -/
def indexPart (s : State) (a : AddrSize) (scale : BitVec 2) (index : BitVec 4) : Quad :=
  if index = 4 then 0 else readAddrReg s a index <<< scale.toNat

/-- The sum of rules R73, R75 and R76 before truncation; `next` is `pc + ilen`. -/
def addrSum (s : State) (m : Mode) (a : AddrSize) (next : Quad) : MemOperand → Quad
  | .base b disp => readAddrReg s a b + dispValue disp
  | .disp32 d =>
    match m with
    | .m64 => next + d.signExtend 64
    | .m32 => d.signExtend 64
  | .sib scale index base disp => readAddrReg s a base + indexPart s a scale index + dispValue disp
  | .sibNoBase scale index d => d.signExtend 64 + indexPart s a scale index

/-- The effective address (rules R73, R75 and R76). -/
def effectiveAddr (s : State) (m : Mode) (a : AddrSize) (next : Quad) (mo : MemOperand) : Quad :=
  truncSize a (addrSum s m a next mo)

/-- The default segment: SS when the base register is number 4 or 5, else DS (rule R77). -/
def defaultSeg : MemOperand → Seg
  | .base b _ => if b = 5 then .ss else .ds
  | .disp32 _ => .ds
  | .sib _ _ b _ => if b = 4 ∨ b = 5 then .ss else .ds
  | .sibNoBase _ _ _ => .ds

/-- The segment of a memory operand (rule R77). -/
def operandSeg (prefixes : List LegacyPrefix) (mo : MemOperand) : Seg :=
  match segOverride prefixes with
  | some s => s
  | none => defaultSeg mo

/-- The memory operand of `n` bytes of an instruction that ends `ilen` bytes after `pc`. -/
def memOperand (s : State) (m : Mode) (prefixes : List LegacyPrefix) (ilen n : Nat) (align16 : Bool)
    (mo : MemOperand) : Except Stop (BitVec (8 * n)) :=
  match addrSize m prefixes with
  | none => .error (.refuse .address16)
  | some a =>
    memRead s m (operandSeg prefixes mo)
      (effectiveAddr s m a (truncAddr m (s.rip + BitVec.ofNat 64 ilen)) mo) n align16

/-- The MMX source operand: a register or 8 bytes of memory (rule R100). -/
def mmSource (s : State) (m : Mode) (prefixes : List LegacyPrefix) (ilen : Nat) : Rm 3 → Except Stop Quad
  | .reg r => .ok (s.readMm r)
  | .mem mo => memOperand s m prefixes ilen 8 false mo

/-- The XMM source operand: a register or 16 bytes of memory, which the legacy forms require aligned (rules
R105 and R110). -/
def xmmSource (s : State) (m : Mode) (prefixes : List LegacyPrefix) (ilen : Nat) (align16 : Bool) :
    Rm 4 → Except Stop XmmVal
  | .reg r => .ok (s.readXmm r)
  | .mem mo => memOperand s m prefixes ilen 16 align16 mo

/-- The YMM source operand: a register or 32 bytes of memory (rule R115). -/
def ymmSource (s : State) (m : Mode) (prefixes : List LegacyPrefix) (ilen : Nat) : Rm 4 → Except Stop YmmVal
  | .reg r => .ok (s.readYmm r)
  | .mem mo => memOperand s m prefixes ilen 32 false mo

end Sys2Proof.Machine
end

