-- ==== Sys2Proof/Machine/Pack.lean ====
section
/-!
DEFINITION. Signed saturation, the pack functions, and the execution skeleton that the forms of one class
share (spec/40_pack_common.md).
-/

namespace Sys2Proof.Machine

/-! ## Saturation (rules R90 and R91) -/

/-- `SatSW2SB` (rule R90). -/
def satSW2SB (w : BitVec 16) : BitVec 8 :=
  if 127 < w.toInt then 0x7F else if w.toInt < -128 then 0x80 else w.extractLsb' 0 8

/-- `SatSD2SW` (rule R91). -/
def satSD2SW (d : BitVec 32) : BitVec 16 :=
  if 32767 < d.toInt then 0x7FFF else if d.toInt < -32768 then 0x8000 else d.extractLsb' 0 16

/-! ## Pack functions (rules R92 to R94) -/

/-- Four words to four bytes, in order. -/
def narrowWB (a : BitVec 64) : BitVec 32 :=
  satSW2SB (a.extractLsb' 48 16) ++ satSW2SB (a.extractLsb' 32 16) ++ satSW2SB (a.extractLsb' 16 16) ++
    satSW2SB (a.extractLsb' 0 16)

/-- Two doublewords to two words, in order. -/
def narrowDW (a : BitVec 64) : BitVec 32 :=
  satSD2SW (a.extractLsb' 32 32) ++ satSD2SW (a.extractLsb' 0 32)

/-- Eight words to eight bytes, or four doublewords to four words: both quadwords narrowed, in order. -/
def narrow128 (narrow : BitVec 64 → BitVec 32) (a : BitVec 128) : BitVec 64 :=
  narrow (a.extractLsb' 64 64) ++ narrow (a.extractLsb' 0 64)

/-- `Pack64WB` (rule R92): the first source fills the low half. -/
def pack64WB (a b : BitVec 64) : BitVec 64 := narrowWB b ++ narrowWB a

/-- `Pack64DW` (rule R92). -/
def pack64DW (a b : BitVec 64) : BitVec 64 := narrowDW b ++ narrowDW a

/-- `Pack128WB` (rule R93). -/
def pack128WB (a b : BitVec 128) : BitVec 128 := narrow128 narrowWB b ++ narrow128 narrowWB a

/-- `Pack128DW` (rule R93). -/
def pack128DW (a b : BitVec 128) : BitVec 128 := narrow128 narrowDW b ++ narrow128 narrowDW a

/-- `Pack256WB` (rule R94): two independent 128-bit packs, one per lane. -/
def pack256WB (a b : BitVec 256) : BitVec 256 :=
  pack128WB (a.extractLsb' 128 128) (b.extractLsb' 128 128) ++
    pack128WB (a.extractLsb' 0 128) (b.extractLsb' 0 128)

/-- `Pack256DW` (rule R94). -/
def pack256DW (a b : BitVec 256) : BitVec 256 :=
  pack128DW (a.extractLsb' 128 128) (b.extractLsb' 128 128) ++
    pack128DW (a.extractLsb' 0 128) (b.extractLsb' 0 128)

/-! ## The common execution skeleton (rule R96, steps 1 to 7), one per class -/

/-- An MMX form (rules R100 and R101). -/
def runMm (pack : BitVec 64 → BitVec 64 → BitVec 64) (e : LegacyEnc) (d : BitVec 3) (src : Rm 3) (s : State) :
    Except Stop State :=
  match admitForm .mmx s with
  | .error x => .error x
  | .ok m =>
    match mmSource s m e.prefixes (legacyLength e src) src with
    | .error x => .error x
    | .ok b => .ok ((s.writeMm d (pack (s.readMm d) b)).retire m (legacyLength e src))

/-- A legacy SSE form (rules R105 and R106). -/
def runSse (pack : BitVec 128 → BitVec 128 → BitVec 128) (e : LegacyEnc) (d : BitVec 4) (src : Rm 4)
    (s : State) : Except Stop State :=
  match admitForm .sse2 s with
  | .error x => .error x
  | .ok m =>
    match xmmSource s m e.prefixes (legacyLength e src) true src with
    | .error x => .error x
    | .ok b => .ok ((s.writeXmm d (pack (s.readXmm d) b)).retire m (legacyLength e src))

/-- A VEX.128 form (rules R110 and R111). -/
def runVex128 (pack : BitVec 128 → BitVec 128 → BitVec 128) (e : VexEnc) (d v : BitVec 4) (src : Rm 4)
    (s : State) : Except Stop State :=
  match admitForm .vex128 s with
  | .error x => .error x
  | .ok m =>
    match xmmSource s m e.prefixes (vexLength e src) false src with
    | .error x => .error x
    | .ok b => .ok ((s.writeXmmZeroUpper d (pack (s.readXmm v) b)).retire m (vexLength e src))

/-- A VEX.256 form (rules R115 and R116). -/
def runVex256 (pack : BitVec 256 → BitVec 256 → BitVec 256) (e : VexEnc) (d v : BitVec 4) (src : Rm 4)
    (s : State) : Except Stop State :=
  match admitForm .vex256 s with
  | .error x => .error x
  | .ok m =>
    match ymmSource s m e.prefixes (vexLength e src) src with
    | .error x => .error x
    | .ok b => .ok ((s.writeYmm d (pack (s.readYmm v) b)).retire m (vexLength e src))

end Sys2Proof.Machine
end

