-- ==== Sys2Proof/Machine/Mmx.lean ====
section
/-!
DEFINITION. The meanings of the 64-bit MMX forms (spec/41_pack_mmx.md).
-/

namespace Sys2Proof.Machine

/-- `PACKSSWB mm1, mm2/m64` (rule R100). -/
def execPacksswbMm (e : LegacyEnc) (d : BitVec 3) (src : Rm 3) (s : State) :
    Host.Outcome State Fault Refusal :=
  finish s (runMm pack64WB e d src s)

/-- `PACKSSDW mm1, mm2/m64` (rule R101). -/
def execPackssdwMm (e : LegacyEnc) (d : BitVec 3) (src : Rm 3) (s : State) :
    Host.Outcome State Fault Refusal :=
  finish s (runMm pack64DW e d src s)

end Sys2Proof.Machine
end

