-- ==== Sys2Proof/Machine/Sse2.lean ====
section
/-!
DEFINITION. The meanings of the 128-bit legacy SSE forms (spec/42_pack_sse2.md).
-/

namespace Sys2Proof.Machine

/-- `PACKSSWB xmm1, xmm2/m128` (rule R105). -/
def execPacksswbXmm (e : LegacyEnc) (d : BitVec 4) (src : Rm 4) (s : State) :
    Host.Outcome State Fault Refusal :=
  finish s (runSse pack128WB e d src s)

/-- `PACKSSDW xmm1, xmm2/m128` (rule R106). -/
def execPackssdwXmm (e : LegacyEnc) (d : BitVec 4) (src : Rm 4) (s : State) :
    Host.Outcome State Fault Refusal :=
  finish s (runSse pack128DW e d src s)

end Sys2Proof.Machine
end

