-- ==== Sys2Proof/Machine/Vex128.lean ====
section
/-!
DEFINITION. The meanings of the VEX.128 forms (spec/43_pack_vex128.md).
-/

namespace Sys2Proof.Machine

/-- `VPACKSSWB xmm1, xmm2, xmm3/m128` (rule R110). -/
def execVpacksswbXmm (e : VexEnc) (d v : BitVec 4) (src : Rm 4) (s : State) :
    Host.Outcome State Fault Refusal :=
  finish s (runVex128 pack128WB e d v src s)

/-- `VPACKSSDW xmm1, xmm2, xmm3/m128` (rule R111). -/
def execVpackssdwXmm (e : VexEnc) (d v : BitVec 4) (src : Rm 4) (s : State) :
    Host.Outcome State Fault Refusal :=
  finish s (runVex128 pack128DW e d v src s)

end Sys2Proof.Machine
end

