-- ==== Sys2Proof/Machine/Vex256.lean ====
section
/-!
DEFINITION. The meanings of the VEX.256 forms (spec/44_pack_vex256.md).
-/

namespace Sys2Proof.Machine

/-- `VPACKSSWB ymm1, ymm2, ymm3/m256` (rule R115). -/
def execVpacksswbYmm (e : VexEnc) (d v : BitVec 4) (src : Rm 4) (s : State) :
    Host.Outcome State Fault Refusal :=
  finish s (runVex256 pack256WB e d v src s)

/-- `VPACKSSDW ymm1, ymm2, ymm3/m256` (rule R116). -/
def execVpackssdwYmm (e : VexEnc) (d v : BitVec 4) (src : Rm 4) (s : State) :
    Host.Outcome State Fault Refusal :=
  finish s (runVex256 pack256DW e d v src s)

end Sys2Proof.Machine
end

