-- ==== Sys2Proof/Machine/Dispatch.lean ====
section
/-!
DEFINITION. One arm per constructor of `Instr`, each a direct call of its meaning.
-/

namespace Sys2Proof.Machine

def exec (i : Instr) (s : State) : Host.Outcome State Fault Refusal :=
  match i with
  | .packsswbMm e d src => Sys2Proof.Machine.execPacksswbMm e d src s
  | .packsswbXmm e d src => Sys2Proof.Machine.execPacksswbXmm e d src s
  | .packssdwMm e d src => Sys2Proof.Machine.execPackssdwMm e d src s
  | .packssdwXmm e d src => Sys2Proof.Machine.execPackssdwXmm e d src s
  | .vpacksswbXmm e d v src => Sys2Proof.Machine.execVpacksswbXmm e d v src s
  | .vpackssdwXmm e d v src => Sys2Proof.Machine.execVpackssdwXmm e d v src s
  | .vpacksswbYmm e d v src => Sys2Proof.Machine.execVpacksswbYmm e d v src s
  | .vpackssdwYmm e d v src => Sys2Proof.Machine.execVpackssdwYmm e d v src s

end Sys2Proof.Machine
end

