-- ==== Sys2Proof/Machine/Fetch.lean ====
section
/-!
DEFINITION. Instruction fetch (rule R57): the bytes at `pc`, as many as decoding needs, and the fault or the
refusal of the first byte that cannot be had.
-/

namespace Sys2Proof.Machine

/-- `pc` in the mode: 64 or 32 bits (rule R25). -/
def State.pc (s : State) (m : Mode) : Quad := truncAddr m s.rip

/-- Why byte `k` of the instruction at `pc` cannot be fetched before `Access` is asked: not canonical in `M64`
(#GP(0), rule R125 (c)), past FFFFFFFFH in `M32` (refused, decision D6). -/
def fetchBlocked (s : State) (m : Mode) (k : Nat) : Option Stop :=
  match m with
  | .m64 => if canonical s.laBits ((s.pc m).toNat + k) then none else some (.raise .gp)
  | .m32 => if (s.pc m).toNat + k < 2 ^ 32 then none else some (.refuse .fetchPastTop)

/-- Byte `k` of the instruction at `pc` (rule R57). -/
def fetchByte (s : State) (m : Mode) (k : Nat) : Except Stop Byte :=
  match fetchBlocked s m k with
  | some e => .error e
  | none =>
    match access s m .fetch (byteAddr m (s.pc m) k) 1 with
    | .error (code, addr) => .error (.raise (.pf code addr))
    | .ok bs => .ok (bs.headD 0)

/-- Up to `n` bytes from byte `k` on, and what stopped the fetch if not all of them could be had. -/
def fetchBytes (s : State) (m : Mode) : Nat → Nat → List Byte × Option Stop
  | _, 0 => ([], none)
  | k, n + 1 =>
    match fetchByte s m k with
    | .error e => ([], some e)
    | .ok b =>
      let (bs, stop) := fetchBytes s m (k + 1) n
      (b :: bs, stop)

/-- The instruction at `pc`: decoded from at most 15 bytes (rule R79), with no fault on a byte beyond its end
(rule R57). -/
def fetchDecode (s : State) (m : Mode) : Except Stop Instr :=
  match fetchBytes s m 0 maxInstrBytes with
  | (bytes, stop) =>
    match decode m bytes with
    | .form i _ => .ok i
    | .ud => .error (.raise .ud)
    | .refuse why => .error (.refuse (.notDecoded why))
    | .more =>
      match stop with
      | some e => .error e
      | none => .error (.refuse (.notDecoded .tooLong))

end Sys2Proof.Machine
end

