-- ==== Sys2Proof/Machine/Launch.lean ====
section
/-!
DEFINITION. How a program comes to run: the outcome of the boot sequence (rules R151 and R152), loading bytes
at `pc`, and the state after INIT (the second column of rule R32's table). No step performs any of these: they
are the outside world's.
-/

namespace Sys2Proof.Machine

/-- The outcome in `M64` of what system software must have done (rule R151 (1) to (5)), as the launch premises
of rule R152 state it: CR0.PE and CR0.PG set, EM, TS and AM clear, OSFXSR and OSXSAVE set, XCR0 = 7, long mode
active with a 64-bit code segment, flat segments, no x87 exception pending, no debug event armed. -/
def State.boot (s : State) : State :=
  { s with
    cr0 := (s.cr0 ||| 0x80000001) &&& 0xFFFFFFFFFFFBFFF3
    cr4 := s.cr4 ||| 0x40220
    xcr0 := 7
    efer := s.efer ||| 0x500
    eflags := s.eflags &&& 0xFFF9FEFF
    fsw := s.fsw &&& 0xFF7F
    code := ⟨true, false, s.code.cpl⟩
    segs := Vector.replicate 6 (.plain 0 0xFFFFFFFF)
    breakpointsArmed := false }

/-- Map the bytes at `pc`. -/
def State.loadCode (s : State) (m : Mode) (bytes : List Byte) : State :=
  { s with mem := s.mem.load (s.pc m) bytes }

/-- The memory operand of an instruction, its prefixes and its size in bytes. -/
def operandOf : Instr → Option (MemOperand × List LegacyPrefix × Nat)
  | .packsswbMm e _ (.mem mo) => some (mo, e.prefixes, 8)
  | .packssdwMm e _ (.mem mo) => some (mo, e.prefixes, 8)
  | .packsswbXmm e _ (.mem mo) => some (mo, e.prefixes, 16)
  | .packssdwXmm e _ (.mem mo) => some (mo, e.prefixes, 16)
  | .vpacksswbXmm e _ _ (.mem mo) => some (mo, e.prefixes, 16)
  | .vpackssdwXmm e _ _ (.mem mo) => some (mo, e.prefixes, 16)
  | .vpacksswbYmm e _ _ (.mem mo) => some (mo, e.prefixes, 32)
  | .vpackssdwYmm e _ _ (.mem mo) => some (mo, e.prefixes, 32)
  | _ => none

/-- Rule R151 (7), "mapped ... the memory operands it reads": the operand bytes of the instruction at `pc`, in
`M64`, mapped as zero where nothing is mapped yet. -/
def State.mapOperand (s : State) : State :=
  match fetchDecode s .m64 with
  | .error _ => s
  | .ok i =>
    match operandOf i with
    | none => s
    | some (mo, prefixes, n) =>
      match addrSize .m64 prefixes with
      | none => s
      | some a =>
        { s with
          mem := s.mem.fill
            (linearAddr s .m64 (operandSeg prefixes mo)
              (effectiveAddr s .m64 a (s.rip + BitVec.ofNat 64 i.ilen) mo)) n }

/-- Place an instruction's bytes where the next step fetches. A state that the model does not run is first
taken through the boot sequence, which also maps the instruction's operand (notes/assumptions/19.md). -/
def State.place (s : State) (bytes : List Byte) : State :=
  match s.runMode with
  | .ok m => s.loadCode m bytes
  | .error _ => (s.boot.loadCode .m64 bytes).mapOperand

/-- The state after INIT (rule R32, last column): the register files, MXCSR, the x87 tag word and XCR0 keep
their values, CR0 keeps CD and NW (bits 30 and 29). THE MODEL'S CHOICE, where the table is silent
(notes/assumptions/27.md): the x87 status word and data registers, the feature flags, LA_BITS, Access (memory,
denials, the fetch-report flag), the platform and the model's own counter are kept, and the rest is as after RESET. -/
def State.init (s : State) : State :=
  { State.reset with
    mm := s.mm
    ymm := s.ymm
    mxcsr := s.mxcsr
    fsw := s.fsw
    ftw := s.ftw
    x87hi := s.x87hi
    xcr0 := s.xcr0
    cr0 := (s.cr0 &&& 0x60000000) ||| 0x10
    features := s.features
    laBits := s.laBits
    reportsFetch := s.reportsFetch
    denials := s.denials
    mem := s.mem
    platform := s.platform
    openChoices := s.openChoices }

end Sys2Proof.Machine
end

