-- ==== Sys2Proof/Machine/Step.lean ====
section
/-!
DEFINITION. One step (rule R96): fetch and decode the instruction at `pc`, then its meaning. An instruction
advances `pc` itself (step 7 of rule R96): the step adds nothing around `exec`.
-/

namespace Sys2Proof.Machine

/-- One step of the machine. -/
def step (s : State) : Host.Outcome State Fault Refusal :=
  match s.runMode with
  | .error r => .refused r
  | .ok m =>
    match fetchDecode s m with
    | .error e => finish s (.error e)
    | .ok i => exec i s

/-- The state with a table word's instruction where the next step fetches (notes/assumptions/19.md). -/
def State.withFetchWord (s : State) (nbits w : Nat) : State := s.place (tableWindow nbits w)

end Sys2Proof.Machine
end

