-- ==== Sys2Proof/WellFormed.lean ====
section
/-!
DEFINITION. Which terms of `Instr` are instructions of a mode: the conditions under which rule R86 yields
the term from its own bytes. One named check per condition.
-/

namespace Sys2Proof

/-- No two legacy prefixes of one kind (rule R86, decision D20). -/
def prefixesDistinct : List LegacyPrefix → Bool
  | [] => true
  | p :: ps => !ps.any (sameKind p) && prefixesDistinct ps

/-- A base register without SIB is not selected by `rm` = 100, nor by `rm` = 101 without a displacement
(rule R73). -/
def baseOk (b : BitVec 4) (disp : Disp) : Bool :=
  decide (b.setWidth 3 ≠ 4#3) && !(decide (b.setWidth 3 = 5#3) && decide (disp = .none))

/-- SIB.base = 101 names a register only with a displacement (rule R76). -/
def sibBaseOk (b : BitVec 4) (disp : Disp) : Bool :=
  !(decide (b.setWidth 3 = 5#3) && decide (disp = .none))

/-- The memory operand has a shape that the ModRM and SIB bytes can express (rules R73 and R76). -/
def memOk : MemOperand → Bool
  | .base b disp => baseOk b disp
  | .disp32 _ => true
  | .sib _ _ b disp => sibBaseOk b disp
  | .sibNoBase _ _ _ => true

/-- The r/m operand's shape. -/
def rmOk {w : Nat} : Rm w → Bool
  | .reg _ => true
  | .mem m => memOk m

/-- A spare bit is `false` where the operand takes the bit. -/
def spareOk {w : Nat} (src : Rm w) (s : SpareBits) : Bool :=
  !(usesX src && s.x) && !(usesB src && s.b)

/-- Without a REX prefix every register number is below 8 (rule R64). -/
def lowRegisters {w w' : Nat} (d : BitVec w) (src : Rm w') : Bool :=
  !d.getLsbD 3 && !rmX src && !rmB src

/-- The REX prefix: absent with low registers only, or present in `M64` (rule R64). -/
def rexOk {w : Nat} (m : Mode) (d : BitVec w) (src : Rm w) : Option SpareBits → Bool
  | none => lowRegisters d src
  | some s => decide (m = .m64) && spareOk src s

/-- No 16-bit addressing (rule R78). -/
def addressOk {w : Nat} (m : Mode) (prefixes : List LegacyPrefix) : Rm w → Bool
  | .reg _ => true
  | .mem _ => !(decide (m = .m32) && decide (LegacyPrefix.addrSize ∈ prefixes))

/-- A non-VEX form; `sse` says whether it is a legacy SSE form, which has 66H, or an MMX form, which has not
(rule R63). -/
def legacyOk {w : Nat} (m : Mode) (sse : Bool) (e : LegacyEnc) (d : BitVec w) (src : Rm w) : Bool :=
  prefixesDistinct e.prefixes && decide (decide (LegacyPrefix.opSize ∈ e.prefixes) = sse) && rmOk src &&
    rexOk m d src e.rex && addressOk m e.prefixes src

/-- The VEX prefix: two bytes only when X = B = 0 (rule R67); in `M32` no register above 7 and no spare
extension bit (rule R81, decision D21). -/
def vexPrefixOk (m : Mode) (d v : BitVec 4) (src : Rm 4) : Option SpareBits → Bool
  | none => !rmX src && !rmB src && (decide (m = .m64) || (!d.getLsbD 3 && !v.getLsbD 3))
  | some s =>
    spareOk src s &&
      (decide (m = .m64) || (lowRegisters d src && !v.getLsbD 3 && !s.x && !s.b))

/-- A VEX form: no 66H before the prefix (rule R66). -/
def vexOk (m : Mode) (e : VexEnc) (d v : BitVec 4) (src : Rm 4) : Bool :=
  prefixesDistinct e.prefixes && decide (LegacyPrefix.opSize ∉ e.prefixes) && rmOk src &&
    vexPrefixOk m d v src e.vex3 && addressOk m e.prefixes src

/-- Is the term an instruction of the mode? -/
def wellFormed (m : Mode) : Instr → Bool
  | .packsswbMm e d src => legacyOk m false e d src
  | .packsswbXmm e d src => legacyOk m true e d src
  | .packssdwMm e d src => legacyOk m false e d src
  | .packssdwXmm e d src => legacyOk m true e d src
  | .vpacksswbXmm e d v src => vexOk m e d v src
  | .vpackssdwXmm e d v src => vexOk m e d v src
  | .vpacksswbYmm e d v src => vexOk m e d v src
  | .vpackssdwYmm e d v src => vexOk m e d v src

end Sys2Proof
end

