-- ==== Sys2Proof/Safety.lean ====
section
/-!
DEFINITION. The terms that claims about this machine use: which class a form is of, when a form may run (the
premises of rule R152 that bear on one form), when its operand can be read (rules R43 to R48 in their own terms), what code
stands at `pc`, the invariant of the state, the end of a run (rule R153), and the launch premises of a program
(rule R152).
-/

namespace Sys2Proof.Machine

/-- The encoding class of an instruction (rule R61). -/
def formClass : Instr → FormClass
  | .packsswbMm _ _ _ => .mmx
  | .packssdwMm _ _ _ => .mmx
  | .packsswbXmm _ _ _ => .sse2
  | .packssdwXmm _ _ _ => .sse2
  | .vpacksswbXmm _ _ _ _ => .vex128
  | .vpackssdwXmm _ _ _ _ => .vex128
  | .vpacksswbYmm _ _ _ _ => .vex256
  | .vpackssdwYmm _ _ _ _ => .vex256

/-- The operand bytes of a class (rule R40). -/
def FormClass.operandBytes : FormClass → Nat
  | .mmx => 8
  | .sse2 => 16
  | .vex128 => 16
  | .vex256 => 32

/-- Only the legacy SSE forms require alignment (rule R44). -/
def FormClass.align16 : FormClass → Bool
  | .mmx => false
  | .sse2 => true
  | .vex128 => false
  | .vex256 => false

/-- The launch premises of rule R152 that bear on one form: `L_mode`, `L_flat` and `L_quiet` (the state runs, in
mode `m`), `L_feat`, `L_en`, `L_ts` and, for the MMX forms, `L_x87`. -/
abbrev FormReady (c : FormClass) (s : State) (m : Mode) : Prop :=
  s.runMode = .ok m ∧ c.hasFlag s.features = true ∧ c.enabled s = true ∧ s.ts = false ∧
    (c = .mmx → s.x87Pending = false)

/-- `Access` answers the data access `(lin, n)` with the bytes `bs` (rule R46): no denial is listed for it, and
byte `k` of `bs` is mapped at `lin + k`. -/
abbrev DataMapped (s : State) (m : Mode) (lin : Quad) (n : Nat) (bs : List Byte) : Prop :=
  bs.length = n ∧ (∀ x ∈ s.denials, ¬(x.kind = .data ∧ x.lin = lin ∧ x.size = n)) ∧
    ∀ k < n, s.mem.read? (byteAddr m lin k).toNat = bs[k]?

/-- A memory operand of `n` bytes can be read and its bytes are `bs`: inside the limit (rule R47), canonical in
`M64` (rule R48), 16-byte aligned where the form asks for it (rule R44), aligned if alignment checking is on
(rule R45), mapped (rule R46). -/
abbrev Readable (s : State) (m : Mode) (seg : Seg) (ea : Quad) (n : Nat) (align16 : Bool) (bs : List Byte) :
    Prop :=
  (m = .m32 → ea.toNat + n - 1 ≤ 0xFFFFFFFF) ∧
    (m = .m64 → ∀ k < n, canonical s.laBits ((linearAddr s m seg ea).toNat + k) = true) ∧
    (align16 = true → (linearAddr s m seg ea).toNat % 16 = 0) ∧
    (s.acEnabled = true → (linearAddr s m seg ea).toNat % n = 0) ∧
    DataMapped s m (linearAddr s m seg ea) n bs

/-- `pc + ilen`, the address of the next instruction (rule R75). -/
def nextPc (s : State) (m : Mode) (ilen : Nat) : Quad := truncAddr m (s.rip + BitVec.ofNat 64 ilen)

/-- The memory operand `mo` reads as the bytes `bs`. -/
def MemOperandIs (s : State) (m : Mode) (prefixes : List LegacyPrefix) (ilen n : Nat) (align16 : Bool)
    (mo : MemOperand) (bs : List Byte) : Prop :=
  ∃ a, addrSize m prefixes = some a ∧
    Readable s m (operandSeg prefixes mo) (effectiveAddr s m a (nextPc s m ilen) mo) n align16 bs

/-- The MMX source operand can be read and is `b`. -/
def MmOperandIs (s : State) (m : Mode) (prefixes : List LegacyPrefix) (ilen : Nat) : Rm 3 → Quad → Prop
  | .reg r, b => b = s.readMm r
  | .mem mo, b => ∃ bs, MemOperandIs s m prefixes ilen 8 false mo bs ∧ b = leValue 64 bs

/-- The XMM source operand can be read and is `b`. -/
def XmmOperandIs (s : State) (m : Mode) (prefixes : List LegacyPrefix) (ilen : Nat) (align16 : Bool) :
    Rm 4 → XmmVal → Prop
  | .reg r, b => b = s.readXmm r
  | .mem mo, b => ∃ bs, MemOperandIs s m prefixes ilen 16 align16 mo bs ∧ b = leValue 128 bs

/-- The YMM source operand can be read and is `b`. -/
def YmmOperandIs (s : State) (m : Mode) (prefixes : List LegacyPrefix) (ilen : Nat) : Rm 4 → YmmVal → Prop
  | .reg r, b => b = s.readYmm r
  | .mem mo, b => ∃ bs, MemOperandIs s m prefixes ilen 32 false mo bs ∧ b = leValue 256 bs

/-- The MMX register an instruction writes. -/
def mmDest : Instr → Option (BitVec 3)
  | .packsswbMm _ d _ => some d
  | .packssdwMm _ d _ => some d
  | _ => none

/-- The vector register an instruction writes. -/
def vecDest : Instr → Option (BitVec 4)
  | .packsswbXmm _ d _ => some d
  | .packssdwXmm _ d _ => some d
  | .vpacksswbXmm _ d _ _ => some d
  | .vpackssdwXmm _ d _ _ => some d
  | .vpacksswbYmm _ d _ _ => some d
  | .vpackssdwYmm _ d _ _ => some d
  | _ => none

/-- The vector registers that hold an instruction's sources: for the legacy forms the destination is one (rule
R33). -/
def vecSources : Instr → List (BitVec 4)
  | .packsswbXmm _ d (.reg r) => [d, r]
  | .packssdwXmm _ d (.reg r) => [d, r]
  | .packsswbXmm _ d (.mem _) => [d]
  | .packssdwXmm _ d (.mem _) => [d]
  | .vpacksswbXmm _ _ v (.reg r) => [v, r]
  | .vpackssdwXmm _ _ v (.reg r) => [v, r]
  | .vpacksswbYmm _ _ v (.reg r) => [v, r]
  | .vpackssdwYmm _ _ v (.reg r) => [v, r]
  | .vpacksswbXmm _ _ v (.mem _) => [v]
  | .vpackssdwXmm _ _ v (.mem _) => [v]
  | .vpacksswbYmm _ _ v (.mem _) => [v]
  | .vpackssdwYmm _ _ v (.mem _) => [v]
  | _ => []

/-- The legacy prefixes an instruction is spelled with (rules R63 and R66). -/
def legacyPrefixes : Instr → List LegacyPrefix
  | .packsswbMm e _ _ => e.prefixes
  | .packssdwMm e _ _ => e.prefixes
  | .packsswbXmm e _ _ => e.prefixes
  | .packssdwXmm e _ _ => e.prefixes
  | .vpacksswbXmm e _ _ _ => e.prefixes
  | .vpackssdwXmm e _ _ _ => e.prefixes
  | .vpacksswbYmm e _ _ _ => e.prefixes
  | .vpackssdwYmm e _ _ _ => e.prefixes

/-- The bytes of legacy prefixes, with a LOCK byte after the first `k` of them for `some k` (rule R63). -/
def prefixBytes (ps : List LegacyPrefix) : Option Nat → List Byte
  | none => ps.map LegacyPrefix.byte
  | some k => (ps.take k).map LegacyPrefix.byte ++ 0xF0 :: (ps.drop k).map LegacyPrefix.byte

/-- Is the source operand a register (`mod` = 11)? -/
def srcIsReg : Instr → Bool
  | .packsswbMm _ _ (.reg _) => true
  | .packssdwMm _ _ (.reg _) => true
  | .packsswbXmm _ _ (.reg _) => true
  | .packssdwXmm _ _ (.reg _) => true
  | .vpacksswbXmm _ _ _ (.reg _) => true
  | .vpackssdwXmm _ _ _ (.reg _) => true
  | .vpacksswbYmm _ _ _ (.reg _) => true
  | .vpackssdwYmm _ _ _ (.reg _) => true
  | _ => false

/-- The operand's segment and effective address when the instruction has a memory operand. -/
def memTarget (i : Instr) (s : State) (m : Mode) : Option (Seg × Quad) :=
  match operandOf i with
  | none => none
  | some (mo, prefixes, _) =>
    match addrSize m prefixes with
    | none => none
    | some a => some (operandSeg prefixes mo, effectiveAddr s m a (nextPc s m i.ilen) mo)

/-- The bytes `bs` stand at `pc` and can be fetched (rule R57): each is at a canonical address in `M64` (rule
R48) and at most FFFFFFFFH in `M32`, no denial is listed for its fetch, and it is mapped. -/
abbrev CodeAt (s : State) (m : Mode) (bs : List Byte) : Prop :=
  ∀ k < bs.length,
    (m = .m64 → canonical s.laBits ((s.pc m).toNat + k) = true) ∧
    (m = .m32 → (s.pc m).toNat + k ≤ 0xFFFFFFFF) ∧
    (∀ x ∈ s.denials, ¬(x.kind = .fetch ∧ x.lin = byteAddr m (s.pc m) k ∧ x.size = 1)) ∧
    s.mem.read? (byteAddr m (s.pc m) k).toNat = bs[k]?

/-- A memory operand violates the segment limit in `M32` (rule R47) or the canonical rule in `M64` (rule
R48). -/
abbrev SegmentViolated (s : State) (m : Mode) (seg : Seg) (ea : Quad) (n : Nat) : Prop :=
  (m = .m32 ∧ 0xFFFFFFFF < ea.toNat + n - 1) ∨
    (m = .m64 ∧ ∃ k < n, canonical s.laBits ((linearAddr s m seg ea).toNat + k) = false)

/-- A 16-byte operand of a legacy SSE form is not aligned (rule R44). -/
abbrev Misaligned (s : State) (m : Mode) (seg : Seg) (ea : Quad) (align16 : Bool) : Prop :=
  align16 = true ∧ (linearAddr s m seg ea).toNat % 16 ≠ 0

/-- The operand's address passes steps 2 to 5 of rule R43: `Access` is asked for it. -/
abbrev AccessReached (s : State) (m : Mode) (seg : Seg) (ea : Quad) (n : Nat) (align16 : Bool) : Prop :=
  ¬SegmentViolated s m seg ea n ∧ ¬Misaligned s m seg ea align16 ∧
    (s.acEnabled = true → (linearAddr s m seg ea).toNat % n = 0)

/-- The displacement as an integer (rule R74). -/
def dispInt : Disp → Int
  | .none => 0
  | .d8 d => d.toInt
  | .d32 d => d.toInt

/-- `trunc_A` as arithmetic: the width of an address size. -/
def AddrSize.bits : AddrSize → Nat
  | .a32 => 32
  | .a64 => 64

/-- `indexpart` of rule R76 as an integer. -/
def indexInt (s : State) (scale : BitVec 2) (index : BitVec 4) : Int :=
  if index = 4 then 0 else (s.readGpr index).toNat * 2 ^ scale.toNat

/-- The sum of rules R73, R75 and R76 as an integer, before `trunc_A`; `next` is `pc + ilen`. -/
def addrInt (s : State) (m : Mode) (next : Quad) : MemOperand → Int
  | .base b disp => (s.readGpr b).toNat + dispInt disp
  | .disp32 d => (if m = .m64 then (next.toNat : Int) else 0) + d.toInt
  | .sib scale index base disp => (s.readGpr base).toNat + indexInt s scale index + dispInt disp
  | .sibNoBase scale index d => d.toInt + indexInt s scale index

/-! ## The source's operation blocks read in place (conflict C7) -/

/-- `x` with the `w` bits from bit `lo` on replaced by `v`: one assignment `DEST[lo+w-1:lo] ← v`. -/
def assignSlice {n w : Nat} (x : BitVec n) (lo : Nat) (v : BitVec w) : BitVec n :=
  (x &&& ~~~((BitVec.allOnes w).setWidth n <<< lo)) ||| (v.setWidth n <<< lo)

/-- The block "PACKSSWB (with 64-bit operands)" executed line after line on one destination register. -/
def inPlace64WB (dest src : BitVec 64) : BitVec 64 :=
  let x := (List.range 4).foldl (fun x i => assignSlice x (8 * i) (satSW2SB (x.extractLsb' (16 * i) 16))) dest
  (List.range 4).foldl
    (fun x i => assignSlice x (32 + 8 * i) (satSW2SB (src.extractLsb' (16 * i) 16))) x

/-- The block "PACKSSDW (with 64-bit operands)" executed line after line on one destination register. -/
def inPlace64DW (dest src : BitVec 64) : BitVec 64 :=
  let x := (List.range 2).foldl (fun x i => assignSlice x (16 * i) (satSD2SW (x.extractLsb' (32 * i) 32))) dest
  (List.range 2).foldl
    (fun x i => assignSlice x (32 + 16 * i) (satSD2SW (src.extractLsb' (32 * i) 32))) x

/-! ## The invariant and the end of a run -/

/-- The upper half of every vector register is zero. -/
def State.upperZero (s : State) : Bool := s.ymm.toList.all (fun v => decide (v.extractLsb' 128 128 = 0))

/-- The invariant of the state: memory is in canonical form; AVX2 implies AVX (rule R4); without AVX the upper
halves, which then do not exist (rule R21), hold nothing; and in `M32` the instruction pointer has 32 bits (rule
R25). -/
abbrev State.Inv (s : State) : Prop :=
  s.mem.wf = true ∧ (s.features.hasAvx2 = true → s.features.hasAvx = true) ∧
    (s.features.hasAvx = false → s.upperZero = true) ∧
    (s.runMode = .ok .m32 → s.rip.toNat < 2 ^ 32)

/-- How a run ends (rule R153). -/
inductive RunEnd where
  /-- `pc = END`, reached without fetching there. -/
  | success (s : State)
  | fault (f : Fault)
  | refused (r : Refusal)
  /-- Refused by the premise `L_text` of rule R152: the text ends inside the instruction at `pc`. -/
  | textCutShort (s : State)
  /-- The step budget is used up. -/
  | unfinished (s : State)
  deriving DecidableEq, Repr

/-- `END = BASE + length` of rule R153. DESIGN CHOICE (notes/assumptions/30.md): the sum is taken modulo the width of
`pc`, so that a program that ends exactly at FFFFFFFFH in `M32` has END = 0, where `pc` then is. -/
def programEnd (m : Mode) (base : Quad) (length : Nat) : Quad := truncAddr m (base + BitVec.ofNat 64 length)

/-- Does the text end inside the instruction at `pc`: are the bytes before `stop` all there, and too few for the
decoder (premise `L_text` of rule R152, notes/assumptions/31.md)? -/
def textEndsInside (stop : Quad) (s : State) (m : Mode) : Bool :=
  match fetchBytes s m 0 (min maxInstrBytes (truncAddr m (stop - s.pc m)).toNat) with
  | (bytes, none) => decide (decode m bytes = .more)
  | (_, some _) => false

/-- Where a run stands before a step: `none` where it goes on. A state outside `M64` and `M32` is refused (premise
`L_mode` of rule R152). `pc` and `stop` are compared at the width of `pc` (rule R25; DESIGN CHOICE for `stop`,
notes/assumptions/30.md). -/
def endsBefore (stop : Quad) (s : State) : Option RunEnd :=
  match s.runMode with
  | .error r => some (.refused r)
  | .ok m =>
    if s.pc m = truncAddr m stop then some (.success s)
    else if textEndsInside stop s m then some (.textCutShort s)
    else none

/-- A run to the address `stop` of at most `n` steps (rule R153, decision D24). That `stop` is taken modulo the width of
`pc` is the model's choice (notes/assumptions/30.md); so is when a text that does not decode is refused
(notes/assumptions/31.md). -/
def runTo (stop : Quad) : Nat → State → RunEnd
  | 0, s => (endsBefore stop s).getD (.unfinished s)
  | n + 1, s =>
    match endsBefore stop s with
    | some e => e
    | none =>
      match step s with
      | .next t => runTo stop n t
      | .fault f => .fault f
      | .refused r => .refused r

/-- The run of a program of `length` bytes at `pc` (rule R153), for at most `n` steps. -/
def runProgram (length n : Nat) (s : State) : RunEnd :=
  match s.runMode with
  | .error r => .refused r
  | .ok m => runTo (programEnd m (s.pc m) length) n s

/-! ## The launch premises of rule R152, each under its own name

`s` is the launch state, in mode `m`; `text` is the program's byte string, placed at `pc`; `is` are its
instructions. -/

/-- The forms that a byte string decodes to, one after the other to its end (rule R86); `fuel` bounds their
number. -/
def textForms (m : Mode) : Nat → List Byte → Option (List Instr)
  | _, [] => some []
  | 0, _ :: _ => none
  | fuel + 1, b :: bs =>
    match decode m (b :: bs) with
    | .form i rest =>
      match textForms m fuel rest with
      | none => none
      | some is => some (i :: is)
    | _ => none

/-- The addresses of the bytes of an instruction's memory operand at a state. -/
def operandAddrs (s : State) (m : Mode) (i : Instr) : List Quad :=
  match memTarget i s m with
  | none => []
  | some (seg, ea) => accessAddrs m (linearAddr s m seg ea) (formClass i).operandBytes

/-- The addresses that a program reads or executes: no form changes a general register or a segment base, so that
they depend on the launch state alone. -/
def touchedAddrs (m : Mode) : State → List Instr → List Quad
  | _, [] => []
  | s, i :: is =>
    accessAddrs m (s.pc m) i.ilen ++ operandAddrs s m i ++ touchedAddrs m { s with rip := nextPc s m i.ilen } is

/-- `L_mode`: `MODE` is `M64` or `M32`. -/
abbrev LMode (s : State) (m : Mode) : Prop :=
  s.cpuMode = match m with | .m64 => CpuMode.long64 | .m32 => CpuMode.prot32

/-- `L_feat`: the feature flag of every form used is true. -/
abbrev LFeat (s : State) (is : List Instr) : Prop := ∀ i ∈ is, (formClass i).hasFlag s.features = true

/-- `L_en`: the enable of every form used is true. -/
abbrev LEn (s : State) (is : List Instr) : Prop := ∀ i ∈ is, (formClass i).enabled s = true

/-- `L_ts`: `TS` is false. -/
abbrev LTs (s : State) : Prop := s.ts = false

/-- `L_x87`: `X87_PENDING` is false. -/
abbrev LX87 (s : State) : Prop := s.x87Pending = false

/-- `L_ac`: `AC_ENABLED` is false. -/
abbrev LAc (s : State) : Prop := s.acEnabled = false

/-- `L_flat`: segment bases are zero except those of FS and GS, and limits are 4 GiB; in `M32` no segment is non-flat
otherwise (rule R47). -/
abbrev LFlat (s : State) (m : Mode) : Prop := s.flatSpans = true ∧ (m = .m32 → s.plainSegs = true)

/-- `L_mem`: every code byte and every byte of a memory operand lies in ordinary memory. -/
abbrev LMem (s : State) (m : Mode) (is : List Instr) : Prop :=
  ∀ a ∈ touchedAddrs m s is, ∀ d ∈ s.platform.devices, d.covers a = false

/-- `L_quiet`: no breakpoint armed, EFLAGS.TF = 0, no interrupt handler changes modelled state. -/
abbrev LQuiet (s : State) : Prop :=
  s.breakpointsArmed = false ∧ s.tf = false ∧ s.platform.handlersRestore = true

/-- `L_solo`: no other agent writes a byte that the program reads or executes. -/
abbrev LSolo (s : State) (m : Mode) (is : List Instr) : Prop :=
  ∀ a ∈ touchedAddrs m s is, ∀ f ∈ s.platform.foreign, f.covers a = false

/-- `L_text`: the bytes from `pc` are the text, and it decodes as the forms `is` up to its end
(notes/assumptions/31.md). -/
abbrev LText (s : State) (m : Mode) (text : List Byte) (is : List Instr) : Prop :=
  CodeAt s m text ∧ textForms m text.length text = some is

/-- All the launch premises of rule R152. -/
abbrev Launch (s : State) (m : Mode) (text : List Byte) (is : List Instr) : Prop :=
  LMode s m ∧ LFeat s is ∧ LEn s is ∧ LTs s ∧ LX87 s ∧ LAc s ∧ LFlat s m ∧ LMem s m is ∧ LQuiet s ∧ LSolo s m is ∧
    LText s m text is

end Sys2Proof.Machine
end

