-- ==== Sys2Proof/Certificates/Slice0/Obligations.lean ====
section
/-!
DEFINITION. The statements for the provers.
-/

open Sys2Proof Sys2Proof.Machine

/-! ## Encoding -/

/-- Rules R60 to R79 and R86: the decoder reads every well-formed instruction, with every operand at every
value its encoding admits, from the bytes the encoder writes, and looks at no byte after them. -/
def Obligations.DecodeReadsEncode : Prop :=
  ∀ (m : Mode) (i : Instr) (rest : List Byte), wellFormed m i = true → decode m (encode i ++ rest) = .form i rest

/-- Rules R60 to R79 and R86: bytes that decode as a form are exactly what the encoder writes for it, and the
form is well-formed: each byte string has one meaning. -/
def Obligations.EncodeWritesDecoded : Prop :=
  ∀ (m : Mode) (bytes : List Byte) (i : Instr) (rest : List Byte),
    decode m bytes = .form i rest → wellFormed m i = true ∧ encode i ++ rest = bytes

/-- Rule R79: an instruction has at least 3 bytes, and an admitted one at most 12. -/
def Obligations.LengthIsThreeToTwelve : Prop :=
  ∀ (m : Mode) (i : Instr), wellFormed m i = true → 3 ≤ (encode i).length ∧ (encode i).length ≤ 12

/-- Section 3.1 of spec/95_test_vectors.md: words of the spec's encodings decode to the instructions they
stand for. -/
def Obligations.SampleWordsDecode : Prop :=
  decode .m64 [0x0F, 0x63, 0xC1] = .form (.packsswbMm ⟨[], none⟩ 0 (.reg 1)) [] ∧
  decode .m64 [0x66, 0x44, 0x0F, 0x63, 0xC9] =
    .form (.packsswbXmm ⟨[.opSize], some ⟨false, false, false⟩⟩ 9 (.reg 1)) [] ∧
  decode .m64 [0xC5, 0x99, 0x6B, 0xDF] = .form (.vpackssdwXmm ⟨[], none⟩ 3 12 (.reg 7)) [] ∧
  decode .m64 [0xC4, 0x01, 0x25, 0x6B, 0x54, 0xD1, 0xFC] =
    .form (.vpackssdwYmm ⟨[], some ⟨false, false, false⟩⟩ 10 11 (.mem (.sib 3 10 9 (.d8 0xFC)))) []

/-- Rules R53, R82 and R121 row (d): any of the eight forms with a LOCK byte in any place among its legacy prefixes
is decoded as #UD. -/
def Obligations.LockIsUndefined : Prop :=
  ∀ (m : Mode) (i : Instr) (k : Nat), wellFormed m i = true → k ≤ (legacyPrefixes i).length →
    decode m ((encode i).take k ++ 0xF0 :: (encode i).drop k) = .ud

/-- Rules R66, R82 and R121 row (e): a VEX form with 66H in any place among its legacy prefixes is decoded as #UD, in
both modes, and so is a VEX form with a REX byte immediately before the VEX prefix, in `M64`. -/
def Obligations.PrefixBeforeVexIsUndefined : Prop :=
  ∀ (m : Mode) (i : Instr), wellFormed m i = true → (formClass i).isVex = true →
    (∀ k ≤ (legacyPrefixes i).length, decode m ((encode i).take k ++ 0x66 :: (encode i).drop k) = .ud) ∧
    ∀ low : BitVec 4, m = .m64 →
      decode m ((encode i).take (legacyPrefixes i).length ++ (4#4 ++ low) ::
        (encode i).drop (legacyPrefixes i).length) = .ud

/-- Rules R72, R82 and R86, decision D20: after any distinct legacy prefixes, with or without a LOCK byte among them,
F2H and F3H are refused, and so are a second prefix of a kind, a second segment override, a second LOCK, and a REX
byte in `M64` that no opcode byte 0FH (or VEX byte) follows. After any distinct legacy prefixes an MMX form with
REX.R = 1, or with REX.B = 1 and a register operand, is refused. -/
def Obligations.RefusedEncodings : Prop :=
  (∀ (m : Mode) (ps : List LegacyPrefix) (lock : Option Nat) (bytes : List Byte), prefixesDistinct ps = true →
    decode m (prefixBytes ps lock ++ 0xF2 :: bytes) = .refuse .repPrefix ∧
    decode m (prefixBytes ps lock ++ 0xF3 :: bytes) = .refuse .repPrefix ∧
    (∀ p q : LegacyPrefix, q ∈ ps → sameKind p q = true →
      decode m (prefixBytes ps lock ++ p.byte :: bytes) = .refuse .repeatedPrefix) ∧
    (lock ≠ none → decode m (prefixBytes ps lock ++ 0xF0 :: bytes) = .refuse .repeatedPrefix) ∧
    ∀ (low : BitVec 4) (b : Byte), m = .m64 → b ≠ 0x0F → b ≠ 0xC4 → b ≠ 0xC5 →
      decode m (prefixBytes ps lock ++ (4#4 ++ low) :: b :: bytes) = .refuse .notAForm) ∧
  ∀ (ps : List LegacyPrefix) (op : PackOp) (w r x b : Bool) (modrm : Byte) (rest : List Byte),
    prefixesDistinct ps = true → LegacyPrefix.opSize ∉ ps → r = true ∨ (b = true ∧ byteTop modrm = 3) →
    decode .m64 (prefixBytes ps none ++
      (4#4 ++ BitVec.ofBool w ++ BitVec.ofBool r ++ BitVec.ofBool x ++ BitVec.ofBool b) :: 0x0F :: op.byte ::
        modrm :: rest) = .refuse .mmxRexBits

/-- Rule R81: in `M32`, after any distinct legacy prefixes, with or without a LOCK byte among them, the bytes C4H and
C5H are LES and LDS, which are refused, exactly when bits 7:6 of the next byte are not 11. -/
def Obligations.VexByteIn32BitMode : Prop :=
  ∀ (ps : List LegacyPrefix) (lock : Option Nat) (b : Byte) (bytes : List Byte), prefixesDistinct ps = true →
    (decode .m32 (prefixBytes ps lock ++ 0xC4 :: b :: bytes) = .refuse .lesOrLds ↔ b.extractLsb' 6 2 ≠ 3#2) ∧
    (decode .m32 (prefixBytes ps lock ++ 0xC5 :: b :: bytes) = .refuse .lesOrLds ↔ b.extractLsb' 6 2 ≠ 3#2)

/-- Rules R22, R72 and R81: a well-formed instruction names vector registers below `NVEC` only, 8 in `M32` and 16 in
`M64`. -/
def Obligations.RegisterNumbersByMode : Prop :=
  ∀ (m : Mode) (i : Instr), wellFormed m i = true →
    (∀ d, vecDest i = some d → d.toNat < Config.nvec m) ∧ ∀ r ∈ vecSources i, r.toNat < Config.nvec m

/-- Rule R78, decision D20: 67H with a memory operand in `M32` (16-bit addressing) is refused: by the decoder, in all
eight forms and among any distinct legacy prefixes the form admits, and by the instruction. -/
def Obligations.SixteenBitAddressingRefused : Prop :=
  (∀ (ps : List LegacyPrefix) (op : PackOp) (modrm : Byte) (rest : List Byte), prefixesDistinct ps = true →
    LegacyPrefix.addrSize ∈ ps → byteTop modrm ≠ 3 →
    decode .m32 (prefixBytes ps none ++ 0x0F :: op.byte :: modrm :: rest) = .refuse .address16 ∧
    (LegacyPrefix.opSize ∉ ps →
      (∀ b1 : Byte, byteTop b1 = 3 → b1.extractLsb' 0 2 = 1#2 →
        decode .m32 (prefixBytes ps none ++ 0xC5 :: b1 :: op.byte :: modrm :: rest) = .refuse .address16) ∧
      ∀ b1 b2 : Byte, b1.extractLsb' 5 3 = 7#3 → b1.extractLsb' 0 5 = 1#5 → b2.getLsbD 6 = true →
        b2.extractLsb' 0 2 = 1#2 →
        decode .m32 (prefixBytes ps none ++ 0xC4 :: b1 :: b2 :: op.byte :: modrm :: rest) =
          .refuse .address16)) ∧
  ∀ (i : Instr) (s : State) (mo : MemOperand) (ps : List LegacyPrefix) (n : Nat),
    FormReady (formClass i) s .m32 → operandOf i = some (mo, ps, n) → LegacyPrefix.addrSize ∈ ps →
    exec i s = .refused .address16

/-! ## Saturation and packing -/

/-- Rule R90: word to byte with signed saturation. -/
def Obligations.WordSaturatesToByte : Prop :=
  ∀ w : BitVec 16,
    (127 < w.toInt → satSW2SB w = 0x7F) ∧ (w.toInt < -128 → satSW2SB w = 0x80) ∧
    (-128 ≤ w.toInt ∧ w.toInt ≤ 127 → satSW2SB w = w.extractLsb' 0 8) ∧
    ((-128 ≤ w.toInt ∧ w.toInt ≤ 127) ↔ w.extractLsb' 7 9 = 0 ∨ w.extractLsb' 7 9 = BitVec.allOnes 9)

/-- Rule R91: doubleword to word with signed saturation. -/
def Obligations.DwordSaturatesToWord : Prop :=
  ∀ d : BitVec 32,
    (32767 < d.toInt → satSD2SW d = 0x7FFF) ∧ (d.toInt < -32768 → satSD2SW d = 0x8000) ∧
    (-32768 ≤ d.toInt ∧ d.toInt ≤ 32767 → satSD2SW d = d.extractLsb' 0 16) ∧
    ((-32768 ≤ d.toInt ∧ d.toInt ≤ 32767) ↔
      d.extractLsb' 15 17 = 0 ∨ d.extractLsb' 15 17 = BitVec.allOnes 17)

/-- The laws (b) to (e) that spec/40_pack_common.md section 1 derives under R97: no wrap-around, the sign is kept, the
functions are monotone, and narrowing undoes sign extension. -/
def Obligations.SaturationLaws : Prop :=
  (∀ w : BitVec 16, (satSW2SB w).toInt = min (max w.toInt (-128)) 127) ∧
  (∀ d : BitVec 32, (satSD2SW d).toInt = min (max d.toInt (-32768)) 32767) ∧
  (∀ w : BitVec 16, (satSW2SB w).msb = w.msb) ∧ (∀ d : BitVec 32, (satSD2SW d).msb = d.msb) ∧
  (∀ x y : BitVec 16, x.toInt ≤ y.toInt → (satSW2SB x).toInt ≤ (satSW2SB y).toInt) ∧
  (∀ x y : BitVec 32, x.toInt ≤ y.toInt → (satSD2SW x).toInt ≤ (satSD2SW y).toInt) ∧
  (∀ b : BitVec 8, satSW2SB (b.signExtend 16) = b) ∧ (∀ b : BitVec 16, satSD2SW (b.signExtend 32) = b)

/-- Rule R92: the elements of the 64-bit packs. -/
def Obligations.Pack64Elements : Prop :=
  ∀ a b : BitVec 64,
    (∀ i < 4, (pack64WB a b).extractLsb' (8 * i) 8 = satSW2SB (a.extractLsb' (16 * i) 16) ∧
      (pack64WB a b).extractLsb' (32 + 8 * i) 8 = satSW2SB (b.extractLsb' (16 * i) 16)) ∧
    (∀ i < 2, (pack64DW a b).extractLsb' (16 * i) 16 = satSD2SW (a.extractLsb' (32 * i) 32) ∧
      (pack64DW a b).extractLsb' (32 + 16 * i) 16 = satSD2SW (b.extractLsb' (32 * i) 32))

/-- Rule R93: the elements of the 128-bit packs. -/
def Obligations.Pack128Elements : Prop :=
  ∀ a b : BitVec 128,
    (∀ i < 8, (pack128WB a b).extractLsb' (8 * i) 8 = satSW2SB (a.extractLsb' (16 * i) 16) ∧
      (pack128WB a b).extractLsb' (64 + 8 * i) 8 = satSW2SB (b.extractLsb' (16 * i) 16)) ∧
    (∀ i < 4, (pack128DW a b).extractLsb' (16 * i) 16 = satSD2SW (a.extractLsb' (32 * i) 32) ∧
      (pack128DW a b).extractLsb' (64 + 16 * i) 16 = satSD2SW (b.extractLsb' (32 * i) 32))

/-- Rule R94: each 128-bit lane of a 256-bit pack is the 128-bit pack of the lane of the two sources; so in lane `l`
the first source's elements fill the low half and the second's the high half. -/
def Obligations.Pack256Elements : Prop :=
  ∀ (a b : BitVec 256), ∀ l < 2,
    (pack256WB a b).extractLsb' (128 * l) 128 =
      pack128WB (a.extractLsb' (128 * l) 128) (b.extractLsb' (128 * l) 128) ∧
    (pack256DW a b).extractLsb' (128 * l) 128 =
      pack128DW (a.extractLsb' (128 * l) 128) (b.extractLsb' (128 * l) 128) ∧
    (∀ i < 8,
      (pack256WB a b).extractLsb' (128 * l + 8 * i) 8 = satSW2SB (a.extractLsb' (128 * l + 16 * i) 16) ∧
      (pack256WB a b).extractLsb' (128 * l + 64 + 8 * i) 8 = satSW2SB (b.extractLsb' (128 * l + 16 * i) 16)) ∧
    (∀ i < 4,
      (pack256DW a b).extractLsb' (128 * l + 16 * i) 16 = satSD2SW (a.extractLsb' (128 * l + 32 * i) 32) ∧
      (pack256DW a b).extractLsb' (128 * l + 64 + 16 * i) 16 = satSD2SW (b.extractLsb' (128 * l + 32 * i) 32))

/-- Conflict C7: for distinct operands the source's 64-bit blocks, read line after line in place, give what the
pack functions of rule R92 give. -/
def Obligations.InPlaceReadingAgrees : Prop :=
  ∀ a b : BitVec 64, inPlace64WB a b = pack64WB a b ∧ inPlace64DW a b = pack64DW a b

/-! ## What each form does -/

/-- Rule R100: `PACKSSWB mm1, mm2/m64` completes and writes `mm[d]`; with the x87 side effects of rule R27. All
else is unchanged (`openChoices` is the model's own field, notes/assumptions/9.md). -/
def Obligations.PacksswbMmResult : Prop :=
  ∀ (e : LegacyEnc) (d : BitVec 3) (src : Rm 3) (s : State) (m : Mode) (b : Quad),
    FormReady .mmx s m → MmOperandIs s m e.prefixes (legacyLength e src) src b →
    exec (.packsswbMm e d src) s = .next
      { s with
        mm := s.mm.set d.toNat (pack64WB (s.readMm d) b) d.isLt
        x87hi := s.x87hi.set d.toNat 0xFFFF d.isLt, ftw := 0, fsw := s.fsw &&& 0xC7FF
        rip := truncAddr m (s.rip + BitVec.ofNat 64 (legacyLength e src))
        openChoices := s.openChoices + 1 }

/-- Rule R101: `PACKSSDW mm1, mm2/m64` completes and writes `mm[d]`; with the x87 side effects of rule R27. All
else is unchanged (`openChoices`: notes/assumptions/9.md). -/
def Obligations.PackssdwMmResult : Prop :=
  ∀ (e : LegacyEnc) (d : BitVec 3) (src : Rm 3) (s : State) (m : Mode) (b : Quad),
    FormReady .mmx s m → MmOperandIs s m e.prefixes (legacyLength e src) src b →
    exec (.packssdwMm e d src) s = .next
      { s with
        mm := s.mm.set d.toNat (pack64DW (s.readMm d) b) d.isLt
        x87hi := s.x87hi.set d.toNat 0xFFFF d.isLt, ftw := 0, fsw := s.fsw &&& 0xC7FF
        rip := truncAddr m (s.rip + BitVec.ofNat 64 (legacyLength e src))
        openChoices := s.openChoices + 1 }

/-- Rule R105: `PACKSSWB xmm1, xmm2/m128` completes and writes `xmm[d]`, leaving bits 255:128 of `ymm[d]`
unchanged; a memory operand is 16-byte aligned. All else is unchanged (`openChoices`: notes/assumptions/9.md). -/
def Obligations.PacksswbXmmResult : Prop :=
  ∀ (e : LegacyEnc) (d : BitVec 4) (src : Rm 4) (s : State) (m : Mode) (b : XmmVal),
    FormReady .sse2 s m → XmmOperandIs s m e.prefixes (legacyLength e src) true src b →
    exec (.packsswbXmm e d src) s = .next
      { s with
        ymm := s.ymm.set d.toNat
          ((s.readYmm d).extractLsb' 128 128 ++ pack128WB ((s.readYmm d).extractLsb' 0 128) b) d.isLt
        rip := truncAddr m (s.rip + BitVec.ofNat 64 (legacyLength e src))
        openChoices := s.openChoices + 1 }

/-- Rule R106: `PACKSSDW xmm1, xmm2/m128` completes and writes `xmm[d]`, leaving bits 255:128 of `ymm[d]`
unchanged; a memory operand is 16-byte aligned. All else is unchanged (`openChoices`: notes/assumptions/9.md). -/
def Obligations.PackssdwXmmResult : Prop :=
  ∀ (e : LegacyEnc) (d : BitVec 4) (src : Rm 4) (s : State) (m : Mode) (b : XmmVal),
    FormReady .sse2 s m → XmmOperandIs s m e.prefixes (legacyLength e src) true src b →
    exec (.packssdwXmm e d src) s = .next
      { s with
        ymm := s.ymm.set d.toNat
          ((s.readYmm d).extractLsb' 128 128 ++ pack128DW ((s.readYmm d).extractLsb' 0 128) b) d.isLt
        rip := truncAddr m (s.rip + BitVec.ofNat 64 (legacyLength e src))
        openChoices := s.openChoices + 1 }

/-- Rule R110: `VPACKSSWB xmm1, xmm2, xmm3/m128` completes and writes `ymm[d]`, bits 255:128 zero; a memory operand
need not be aligned. All else is unchanged (`openChoices`: notes/assumptions/9.md). -/
def Obligations.VpacksswbXmmResult : Prop :=
  ∀ (e : VexEnc) (d v : BitVec 4) (src : Rm 4) (s : State) (m : Mode) (b : XmmVal),
    FormReady .vex128 s m → XmmOperandIs s m e.prefixes (vexLength e src) false src b →
    exec (.vpacksswbXmm e d v src) s = .next
      { s with
        ymm := s.ymm.set d.toNat ((pack128WB ((s.readYmm v).extractLsb' 0 128) b).setWidth 256) d.isLt
        rip := truncAddr m (s.rip + BitVec.ofNat 64 (vexLength e src))
        openChoices := s.openChoices + 1 }

/-- Rule R111: `VPACKSSDW xmm1, xmm2, xmm3/m128` completes and writes `ymm[d]`, bits 255:128 zero; a memory operand
need not be aligned. All else is unchanged (`openChoices`: notes/assumptions/9.md). -/
def Obligations.VpackssdwXmmResult : Prop :=
  ∀ (e : VexEnc) (d v : BitVec 4) (src : Rm 4) (s : State) (m : Mode) (b : XmmVal),
    FormReady .vex128 s m → XmmOperandIs s m e.prefixes (vexLength e src) false src b →
    exec (.vpackssdwXmm e d v src) s = .next
      { s with
        ymm := s.ymm.set d.toNat ((pack128DW ((s.readYmm v).extractLsb' 0 128) b).setWidth 256) d.isLt
        rip := truncAddr m (s.rip + BitVec.ofNat 64 (vexLength e src))
        openChoices := s.openChoices + 1 }

/-- Rule R115: `VPACKSSWB ymm1, ymm2, ymm3/m256` completes and writes all of `ymm[d]`; a memory operand need not be
aligned. All else is unchanged (`openChoices`: notes/assumptions/9.md). -/
def Obligations.VpacksswbYmmResult : Prop :=
  ∀ (e : VexEnc) (d v : BitVec 4) (src : Rm 4) (s : State) (m : Mode) (b : YmmVal),
    FormReady .vex256 s m → YmmOperandIs s m e.prefixes (vexLength e src) src b →
    exec (.vpacksswbYmm e d v src) s = .next
      { s with
        ymm := s.ymm.set d.toNat (pack256WB (s.readYmm v) b) d.isLt
        rip := truncAddr m (s.rip + BitVec.ofNat 64 (vexLength e src))
        openChoices := s.openChoices + 1 }

/-- Rule R116: `VPACKSSDW ymm1, ymm2, ymm3/m256` completes and writes all of `ymm[d]`; a memory operand need not be
aligned. All else is unchanged (`openChoices`: notes/assumptions/9.md). -/
def Obligations.VpackssdwYmmResult : Prop :=
  ∀ (e : VexEnc) (d v : BitVec 4) (src : Rm 4) (s : State) (m : Mode) (b : YmmVal),
    FormReady .vex256 s m → YmmOperandIs s m e.prefixes (vexLength e src) src b →
    exec (.vpackssdwYmm e d v src) s = .next
      { s with
        ymm := s.ymm.set d.toNat (pack256DW (s.readYmm v) b) d.isLt
        rip := truncAddr m (s.rip + BitVec.ofNat 64 (vexLength e src))
        openChoices := s.openChoices + 1 }

/-! ## Frames and whole-machine rules -/

/-- Rules R23, R24, R26, R31, R33 and R41: a completed instruction changes no MMX register but its MMX
destination, no vector register but its vector destination, no general register, no flag, no special register
and no byte of memory; the x87 status word, tag word and exponents only if it is an MMX form. -/
def Obligations.FormsWriteOnlyTheirDestination : Prop :=
  ∀ (i : Instr) (s t : State), exec i s = .next t →
    (∀ j : BitVec 3, mmDest i ≠ some j → t.readMm j = s.readMm j ∧ t.readX87 j = s.readX87 j) ∧
    (∀ j : BitVec 4, vecDest i ≠ some j → t.readYmm j = s.readYmm j) ∧
    (mmDest i = none → t.fsw = s.fsw ∧ t.ftw = s.ftw ∧ t.x87hi = s.x87hi) ∧
    (∀ j : BitVec 4, t.readGpr j = s.readGpr j) ∧ t.eflags = s.eflags ∧ t.mxcsr = s.mxcsr ∧
    t.cr0 = s.cr0 ∧ t.cr2 = s.cr2 ∧ t.cr4 = s.cr4 ∧ t.xcr0 = s.xcr0 ∧ t.efer = s.efer ∧ t.code = s.code ∧
    t.segs = s.segs ∧ (∀ a : Nat, t.mem.read? a = s.mem.read? a)

/-- Rule R23: bits 255:128 of the destination are unchanged by a legacy SSE form and zeroed by a VEX.128
form. -/
def Obligations.UpperHalfByClass : Prop :=
  ∀ (i : Instr) (s t : State) (d : BitVec 4), exec i s = .next t → vecDest i = some d →
    (formClass i = .sse2 → (t.readYmm d).extractLsb' 128 128 = (s.readYmm d).extractLsb' 128 128) ∧
    (formClass i = .vex128 → (t.readYmm d).extractLsb' 128 128 = 0)

/-- Rule R27 (a), (b), (c): a completed MMX form leaves every tag valid, top-of-stack 0 with the other status bits
unchanged, and bits 79:64 of the x87 register it wrote all ones, the new MMX value below them. -/
def Obligations.MmxFormsMarkX87State : Prop :=
  ∀ (i : Instr) (s t : State) (d : BitVec 3), exec i s = .next t → mmDest i = some d →
    t.ftw = 0 ∧ t.fsw.extractLsb' 11 3 = 0 ∧
    (∀ k < 16, k < 11 ∨ 13 < k → t.fsw.getLsbD k = s.fsw.getLsbD k) ∧
    t.readX87 d = 0xFFFF#16 ++ t.readMm d

/-- Rule R33: a VEX form does not read its destination: the old value of a register that is not among its sources
makes no difference to the outcome. -/
def Obligations.VexDestinationIsNotRead : Prop :=
  ∀ (i : Instr) (s : State) (d : BitVec 4) (x : YmmVal),
    (formClass i).isVex = true → vecDest i = some d → d ∉ vecSources i →
    (∀ t, exec i s = .next t → exec i (s.writeYmm d x) = .next t)

/-- Rule R120: no form raises an exception, or is refused, because of the values of its register operands: with any
other contents of the MMX and vector registers the instruction completes, raises the same exception or is refused
in the same way. -/
def Obligations.OutcomeIgnoresRegisterData : Prop :=
  ∀ (i : Instr) (s : State) (mm : Vector Quad 8) (ymm : Vector YmmVal 16),
    (∀ t, exec i s = .next t → ∃ t', exec i { s with mm := mm, ymm := ymm } = .next t') ∧
    (∀ f, exec i s = .fault f → ∃ f', exec i { s with mm := mm, ymm := ymm } = .fault f' ∧
      f'.vector = f.vector ∧ f'.errorCode = f.errorCode) ∧
    (∀ r, exec i s = .refused r → exec i { s with mm := mm, ymm := ymm } = .refused r)

/-- Rules R26, R31 and R41: no step changes memory, the general registers, the flags, MXCSR, the control registers,
the segments, the feature flags or any other parameter, nor, by them, the mode, the enables, `TS`, `X87_PENDING`
and `AC_ENABLED`. -/
def Obligations.StepKeepsParameters : Prop :=
  ∀ s t : State, step s = .next t →
    t.mem = s.mem ∧ t.gpr = s.gpr ∧ t.eflags = s.eflags ∧ t.mxcsr = s.mxcsr ∧ t.cr0 = s.cr0 ∧ t.cr2 = s.cr2 ∧
    t.cr4 = s.cr4 ∧ t.xcr0 = s.xcr0 ∧ t.efer = s.efer ∧ t.code = s.code ∧ t.segs = s.segs ∧
    t.breakpointsArmed = s.breakpointsArmed ∧ t.features = s.features ∧ t.laBits = s.laBits ∧
    t.reportsFetch = s.reportsFetch ∧ t.denials = s.denials ∧ t.platform = s.platform ∧ t.runMode = s.runMode ∧
    (∀ c : FormClass, c.enabled t = c.enabled s) ∧ t.ts = s.ts ∧ t.x87Pending = s.x87Pending ∧
    t.acEnabled = s.acEnabled

/-- The invariant (memory in canonical form; AVX2 implies AVX, rule R4; no contents in upper halves that do not
exist, rule R21; a 32-bit instruction pointer in `M32`, rule R25) is kept by every step from every state. -/
def Obligations.StepKeepsInv : Prop := ∀ s t : State, s.Inv → step s = .next t → t.Inv

/-- The invariant holds at reset. The memory form and the feature flags at reset are the model's choices
(notes/assumptions/3.md and 5.md). -/
def Obligations.ResetHasInv : Prop := State.reset.Inv

/-! ## Faults and refusals -/

/-- Rule R121 rows (a), (b), (c): a form whose feature flag or whose operating-system enable is false raises #UD,
before #NM and before any operand is read. -/
def Obligations.MissingFeatureIsUndefined : Prop :=
  ∀ (i : Instr) (s : State) (m : Mode), s.runMode = .ok m →
    ((formClass i).hasFlag s.features = false ∨ (formClass i).enabled s = false) →
    exec i s = .fault (.ud s)

/-- Rule R121 row (f) and premise `L_mode` of rule R152: in real-address and virtual-8086 mode a VEX form raises
#UD, and every other form is refused, since those modes are not modelled; with a 16-bit code segment, or CS.L without
long mode, every form is refused. -/
def Obligations.FormsOutsideProtectedMode : Prop :=
  ∀ (i : Instr) (s : State),
    ((s.cpuMode = .real ∨ s.cpuMode = .virtual8086) →
      ((formClass i).isVex = true → exec i s = .fault (.ud s)) ∧
      ((formClass i).isVex = false → exec i s = .refused (.modeNotModelled s.cpuMode))) ∧
    (s.cpuMode = .other → exec i s = .refused (.modeNotModelled .other))

/-- Premise `L_mode` of rule R152: the step is refused in every mode but `M64` and `M32`, and with a 16-bit code
segment or CS.L without long mode so is every instruction. Premise `L_flat` (rule R47): in `M32` a segment that is not
flat is refused, be it by its base, its limit, a null selector, expand-down type or rights that forbid a read (how the
last three are marked: notes/assumptions/15.md). THE MODEL'S CHOICE (notes/assumptions/16.md): an armed debug event is refused too, before the segments
are looked at; rule R152 says of `L_quiet` only that a state without it is not modelled. The place of TF is
notes/assumptions/2.md. -/
def Obligations.UnmodelledStatesRefused : Prop :=
  ∀ (i : Instr) (s : State),
    (s.cpuMode ≠ .long64 → s.cpuMode ≠ .prot32 → step s = .refused (.modeNotModelled s.cpuMode)) ∧
    (s.cpuMode = .other → exec i s = .refused (.modeNotModelled .other)) ∧
    ((s.cpuMode = .long64 ∨ s.cpuMode = .prot32) → (s.eflags.getLsbD 8 = true ∨ s.breakpointsArmed = true) →
      exec i s = .refused .debugEventArmed ∧ step s = .refused .debugEventArmed) ∧
    (s.cpuMode = .prot32 → s.eflags.getLsbD 8 = false → s.breakpointsArmed = false →
      ((∃ k : Fin 6, s.segs[k].limit ≠ 0xFFFFFFFF) ∨ s.segs[0].base ≠ 0 ∨ s.segs[1].base ≠ 0 ∨
        s.segs[2].base ≠ 0 ∨ s.segs[3].base ≠ 0 ∨
        ∃ k : Fin 6, s.segs[k].nullSelector = true ∨ s.segs[k].expandDown = true ∨ s.segs[k].readable = false) →
      exec i s = .refused .segmentsNotFlat ∧ step s = .refused .segmentsNotFlat)

/-- Rule R122: every form raises #NM when CR0.TS = 1 and no #UD condition holds. -/
def Obligations.TaskSwitchedIsNotAvailable : Prop :=
  ∀ (i : Instr) (s : State) (m : Mode), s.runMode = .ok m → (formClass i).hasFlag s.features = true →
    (formClass i).enabled s = true → s.cr0.getLsbD 3 = true → exec i s = .fault (.nm s)

/-- Rule R123: an MMX form raises #MF when an x87 exception is pending and neither #UD nor #NM applies; the other
six forms never raise #MF; and a step leaves `X87_PENDING` false where it is. -/
def Obligations.PendingX87StopsMmxForms : Prop :=
  (∀ (i : Instr) (s : State) (m : Mode), s.runMode = .ok m → formClass i = .mmx → s.features.hasMmx = true →
    s.enMmx = true → s.ts = false → s.x87Pending = true → exec i s = .fault (.mf s)) ∧
  (∀ (i : Instr) (s u : State), formClass i ≠ .mmx → exec i s ≠ .fault (.mf u)) ∧
  ∀ s t : State, step s = .next t → s.x87Pending = false → t.x87Pending = false

/-- Rules R124 and R125 (a): an operand outside the segment limit (`M32`) or not canonical (`M64`) raises #SS(0)
through SS and #GP(0) through any other segment; through SS it must not be misaligned as well. -/
def Obligations.SegmentViolationFaults : Prop :=
  ∀ (i : Instr) (s : State) (m : Mode) (seg : Seg) (ea : Quad), FormReady (formClass i) s m →
    memTarget i s m = some (seg, ea) → SegmentViolated s m seg ea (formClass i).operandBytes →
    (seg ≠ .ss → exec i s = .fault (.gp s)) ∧
    (seg = .ss → ¬Misaligned s m seg ea (formClass i).align16 → exec i s = .fault (.ss s))

/-- Rules R44 and R125 (b): a legacy SSE operand that is not 16-byte aligned raises #GP(0) when nothing else is
wrong with its address. -/
def Obligations.MisalignedLegacySseFaults : Prop :=
  ∀ (i : Instr) (s : State) (m : Mode) (seg : Seg) (ea : Quad), FormReady (formClass i) s m →
    formClass i = .sse2 → memTarget i s m = some (seg, ea) → ¬SegmentViolated s m seg ea 16 →
    (linearAddr s m seg ea).toNat % 16 ≠ 0 → exec i s = .fault (.gp s)

/-- Rule R128 item 5: when an operand through SS is both outside the segment and misaligned, one of #SS(0) and
#GP(0) is reported, and which one is left open. -/
def Obligations.StackAndAlignmentViolation : Prop :=
  ∀ (i : Instr) (s : State) (m : Mode) (ea : Quad), FormReady (formClass i) s m → formClass i = .sse2 →
    memTarget i s m = some (.ss, ea) → SegmentViolated s m .ss ea 16 →
    (linearAddr s m .ss ea).toNat % 16 ≠ 0 → exec i s = .fault (.ss s) ∨ exec i s = .fault (.gp s)

/-- Rule R45 and decision D10: an unaligned operand under alignment checking is refused. -/
def Obligations.UnalignedUnderCheckRefused : Prop :=
  ∀ (i : Instr) (s : State) (m : Mode) (seg : Seg) (ea : Quad), FormReady (formClass i) s m →
    memTarget i s m = some (seg, ea) → ¬SegmentViolated s m seg ea (formClass i).operandBytes →
    ¬Misaligned s m seg ea (formClass i).align16 → s.acEnabled = true →
    (linearAddr s m seg ea).toNat % (formClass i).operandBytes ≠ 0 →
    exec i s = .refused .unalignedUnderAlignmentCheck

/-- Rules R46 and R126: an operand that `Access` faults raises #PF: with the listed code and address where the access
is denied, and otherwise, by the model's default (notes/assumptions/5.md), not present at the lowest byte that is
not mapped. -/
def Obligations.UnmappedOperandPageFaults : Prop :=
  ∀ (i : Instr) (s : State) (m : Mode) (seg : Seg) (ea : Quad), FormReady (formClass i) s m →
    memTarget i s m = some (seg, ea) →
    AccessReached s m seg ea (formClass i).operandBytes (formClass i).align16 →
    (∀ x ∈ s.denials,
      (∀ y ∈ s.denials, (y.kind = .data ∧ y.lin = linearAddr s m seg ea ∧
        y.size = (formClass i).operandBytes) ↔ y = x) →
      exec i s = .fault (.pf x.code x.addr s)) ∧
    (∀ k < (formClass i).operandBytes,
      (∀ x ∈ s.denials, ¬(x.kind = .data ∧ x.lin = linearAddr s m seg ea ∧
        x.size = (formClass i).operandBytes)) →
      (∀ j < k, s.mem.read? (byteAddr m (linearAddr s m seg ea) j).toNat ≠ none) →
      s.mem.read? (byteAddr m (linearAddr s m seg ea) k).toNat = none →
      exec i s = .fault
        (.pf (if s.code.cpl = 3 then 4 else 0) (byteAddr m (linearAddr s m seg ea) k) s))

/-- Rule R130: a fault leaves the whole state as it was before the instruction. -/
def Obligations.FaultsChangeNothing : Prop :=
  (∀ (i : Instr) (s : State) (f : Fault), exec i s = .fault f → f.state = s) ∧
  ∀ (s : State) (f : Fault), step s = .fault f → f.state = s

/-- Rule R128: an instruction with a register operand can raise only #UD, #NM and #MF when it executes. -/
def Obligations.RegisterFormsFaults : Prop :=
  ∀ (i : Instr) (s : State) (f : Fault), srcIsReg i = true → exec i s = .fault f →
    f = .ud s ∨ f = .nm s ∨ f = .mf s

/-! ## Memory, addresses -/

/-- Rule R42: byte `k` of a memory operand's value is the byte at address `lin + k`, and the four bytes of a disp32
stand lowest first. -/
def Obligations.OperandsAreLittleEndian : Prop :=
  (∀ (s : State) (m : Mode) (seg : Seg) (ea : Quad) (n : Nat) (align16 : Bool) (v : BitVec (8 * n)),
    memRead s m seg ea n align16 = .ok v →
    ∀ k < n, s.mem.read? (byteAddr m (linearAddr s m seg ea) k).toNat = some (v.extractLsb' (8 * k) 8)) ∧
  ∀ (b0 b1 b2 b3 : Byte) (rest : List Byte), ∃ d, decodeDisp32 (b0 :: b1 :: b2 :: b3 :: rest) = some (d, rest) ∧
    d.extractLsb' 0 8 = b0 ∧ d.extractLsb' 8 8 = b1 ∧ d.extractLsb' 16 8 = b2 ∧ d.extractLsb' 24 8 = b3

/-- Rule R43: `MemRead` answers the operand's bytes when no step of it stops. -/
def Obligations.MemReadAnswersMappedBytes : Prop :=
  ∀ (s : State) (m : Mode) (seg : Seg) (ea : Quad) (n : Nat) (align16 : Bool) (bs : List Byte), 0 < n →
    Readable s m seg ea n align16 bs → memRead s m seg ea n align16 = .ok (leValue (8 * n) bs)

/-- Rules R73 to R76: the effective address is the sum of base, scaled index and sign-extended displacement, or of
`pc + ilen` and the displacement, truncated to the address size. -/
def Obligations.EffectiveAddressIsTruncatedSum : Prop :=
  ∀ (s : State) (m : Mode) (prefixes : List LegacyPrefix) (a : AddrSize) (next : Quad) (mo : MemOperand),
    addrSize m prefixes = some a →
    ((effectiveAddr s m a next mo).toNat : Int) = addrInt s m next mo % 2 ^ a.bits

/-- Rule R77: with prefixes among which no override stands, the segment is SS exactly when the base register is number 4
or 5, and DS otherwise; an override prefix names the segment. -/
def Obligations.OperandSegments : Prop :=
  ∀ (ps : List LegacyPrefix),
    ((∀ seg : Seg, LegacyPrefix.seg seg ∉ ps) →
      (∀ (b : BitVec 4) (disp : Disp), baseOk b disp = true →
        operandSeg ps (.base b disp) = if b = 4 ∨ b = 5 then .ss else .ds) ∧
      (∀ (sc : BitVec 2) (ix b : BitVec 4) (disp : Disp),
        operandSeg ps (.sib sc ix b disp) = if b = 4 ∨ b = 5 then .ss else .ds) ∧
      (∀ d : BitVec 32, operandSeg ps (.disp32 d) = .ds) ∧
      (∀ (sc : BitVec 2) (ix : BitVec 4) (d : BitVec 32), operandSeg ps (.sibNoBase sc ix d) = .ds)) ∧
    ∀ (seg : Seg) (mo : MemOperand), prefixesDistinct ps = true → LegacyPrefix.seg seg ∈ ps →
      operandSeg ps mo = seg

/-- Rule R48: a 64-bit address is canonical exactly when bits 63 to `LA_BITS-1` are all equal. -/
def Obligations.CanonicalIsSignExtended : Prop :=
  ∀ (la : LaBits) (a : Quad), canonical la a.toNat = true ↔
    ∀ k, la.bits - 1 ≤ k → k < 64 → a.getLsbD k = a.getLsbD 63

/-! ## The control registers, reset, boot -/

/-- Rules R28 and R29: the enables and the mode as the control bits give them, and the CPUID bits that show the
feature flags. -/
def Obligations.EnablesFollowControlBits : Prop :=
  ∀ s : State,
    (s.enMmx = true ↔ s.cr0.getLsbD 2 = false) ∧
    (s.enSse = true ↔ s.cr0.getLsbD 2 = false ∧ s.cr4.getLsbD 9 = true) ∧
    (s.enAvx = true ↔ s.cr4.getLsbD 18 = true ∧ s.xcr0.getLsbD 1 = true ∧ s.xcr0.getLsbD 2 = true) ∧
    (s.ts = true ↔ s.cr0.getLsbD 3 = true) ∧ (s.x87Pending = true ↔ s.fsw.getLsbD 7 = true) ∧
    (s.acEnabled = true ↔ s.cr0.getLsbD 18 = true ∧ s.eflags.getLsbD 18 = true ∧ s.code.cpl = 3) ∧
    (s.cpuMode = .long64 ↔ s.cr0.getLsbD 0 = true ∧ s.eflags.getLsbD 17 = false ∧ s.efer.getLsbD 10 = true ∧
      s.code.l = true) ∧
    (s.cpuMode = .prot32 ↔ s.cr0.getLsbD 0 = true ∧ s.eflags.getLsbD 17 = false ∧ s.code.l = false ∧
      s.code.d = true) ∧
    s.cpuid (.leaf1Edx 23) = some s.features.hasMmx ∧ s.cpuid (.leaf1Edx 26) = some s.features.hasSse2 ∧
    s.cpuid (.leaf1Ecx 28) = some s.features.hasAvx ∧ s.cpuid (.leaf7Ebx 5) = some s.features.hasAvx2 ∧
    s.cpuid (.leaf1Ecx 27) = some (s.cr4.getLsbD 18)

/-- Rule R32: the values of its table after power-up or RESET, and their consequences: real-address mode, `EN_SSE`
and `EN_AVX` false, `EN_MMX` true, `TS` false. (The table gives EAX and EDX no value; the model's are
notes/assumptions/1.md.) -/
def Obligations.ResetValues : Prop :=
  (∀ i : BitVec 3, State.reset.readMm i = 0 ∧ State.reset.readX87 i = 0) ∧
  (∀ i : BitVec 4, State.reset.readYmm i = 0) ∧
  (∀ i : BitVec 4, i ≠ 0 → i ≠ 2 → State.reset.readGpr i = 0) ∧
  State.reset.mxcsr = 0x1F80 ∧ State.reset.ftw = 0x5555 ∧ State.reset.rip = 0xFFF0 ∧
  State.reset.segs[1].base = 0xFFFF0000 ∧ State.reset.eflags = 2 ∧ State.reset.cr0 = 0x60000010 ∧
  State.reset.cr4 = 0 ∧ State.reset.xcr0 = 1 ∧ State.reset.cpuMode = .real ∧ State.reset.enSse = false ∧
  State.reset.enAvx = false ∧ State.reset.enMmx = true ∧ State.reset.ts = false

/-- Rule R150: no form can execute right after a hardware reset: the first step is refused, since real-address mode
is not modelled. -/
def Obligations.ResetRunsNoForm : Prop :=
  step State.reset = .refused (.modeNotModelled .real)

/-- THE MODEL'S OWN stand-in (notes/assumptions/19.md): `State.boot` is a state the model names for the outcome of what
rule R151 lists, and besides that it clears AM, AC, VM, TF and ES. It is in `M64`, it meets the premises of rule R152
that bear on every form whose feature flag is true, and alignment checking is off in it. -/
def Obligations.BootMeetsLaunchPremises : Prop :=
  ∀ (s : State) (c : FormClass), c.hasFlag s.features = true →
    FormReady c s.boot .m64 ∧ s.boot.acEnabled = false

/-- Rule R32, the column "after INIT": the register files, MXCSR, the x87 tag word and XCR0 are unchanged, CR0 keeps
CD and NW, and the general registers, EIP, EFLAGS and CR4 have the values of a RESET. -/
def Obligations.InitKeepsRegisterFiles : Prop :=
  ∀ s : State, s.init.mm = s.mm ∧ s.init.ymm = s.ymm ∧ s.init.mxcsr = s.mxcsr ∧ s.init.ftw = s.ftw ∧
    s.init.xcr0 = s.xcr0 ∧ s.init.gpr = State.reset.gpr ∧ s.init.rip = State.reset.rip ∧
    s.init.eflags = State.reset.eflags ∧ s.init.cr4 = 0 ∧ s.init.cpuMode = .real ∧
    s.init.cr0.getLsbD 30 = s.cr0.getLsbD 30 ∧ s.init.cr0.getLsbD 29 = s.cr0.getLsbD 29

/-! ## Steps -/

/-- Rule R96: when the bytes at `pc` decode to an instruction, the step is `exec` of it; the step adds nothing
around `exec`, which itself advances `pc`. -/
def Obligations.StepRunsDecoded : Prop :=
  ∀ (s : State) (m : Mode) (bs : List Byte) (i : Instr) (rest : List Byte), s.runMode = .ok m →
    bs.length ≤ 15 → CodeAt s m bs → decode m bs = .form i rest → step s = exec i s

/-- Rules R25 and R79: a completed step ran a well-formed instruction whose bytes stand at `pc`, and advanced `pc` by
their number, modulo 2^64 in `M64` and 2^32 in `M32`. -/
def Obligations.StepAdvancesPc : Prop :=
  ∀ (s t : State) (m : Mode), s.runMode = .ok m → step s = .next t →
    ∃ i, wellFormed m i = true ∧ CodeAt s m (encode i) ∧ exec i s = .next t ∧
      t.rip = truncAddr m (s.rip + BitVec.ofNat 64 (encode i).length)

/-- Rules R80 and R96 step 0: bytes at `pc` that the decoder refuses are refused by the step, and bytes that it
answers #UD for raise #UD. -/
def Obligations.StepStopsOnUndecoded : Prop :=
  ∀ (s : State) (m : Mode) (bs : List Byte), s.runMode = .ok m → bs.length ≤ 15 → CodeAt s m bs →
    (∀ why, decode m bs = .refuse why → step s = .refused (.notDecoded why)) ∧
    (decode m bs = .ud → step s = .fault (.ud s))

/-- Rules R57, R125 (c) and R126: when the decoder needs a byte that cannot be fetched, the step raises #GP(0) for an
address that is not canonical (`M64`), is refused past FFFFFFFFH (`M32`), and raises #PF for a byte whose fetch a listed
denial names, with the denial's code and address, or that is not mapped. The list of denials and the code and address
of the last case are the model's (notes/assumptions/5.md). -/
def Obligations.FetchStopsAtFirstMissingByte : Prop :=
  ∀ (s : State) (m : Mode) (bs : List Byte), s.runMode = .ok m → CodeAt s m bs → decode m bs = .more →
    (m = .m64 → canonical s.laBits ((s.pc m).toNat + bs.length) = false → step s = .fault (.gp s)) ∧
    (m = .m32 → 0xFFFFFFFF < (s.pc m).toNat + bs.length → step s = .refused .fetchPastTop) ∧
    ((m = .m64 → canonical s.laBits ((s.pc m).toNat + bs.length) = true) →
      (m = .m32 → (s.pc m).toNat + bs.length ≤ 0xFFFFFFFF) →
      (∀ x ∈ s.denials,
        (∀ y ∈ s.denials, (y.kind = .fetch ∧ y.lin = byteAddr m (s.pc m) bs.length ∧ y.size = 1) ↔ y = x) →
        step s = .fault (.pf x.code x.addr s)) ∧
      ((∀ x ∈ s.denials, ¬(x.kind = .fetch ∧ x.lin = byteAddr m (s.pc m) bs.length ∧ x.size = 1)) →
        s.mem.read? (byteAddr m (s.pc m) bs.length).toNat = none →
        step s = .fault (.pf (notPresentCode s .fetch) (byteAddr m (s.pc m) bs.length) s)))

/-- The model's own loader (notes/assumptions/19.md): after reset, a table word that the decoder reads is run by the
very next step. -/
def Obligations.PlacedWordIsRun : Prop :=
  ∀ (nbits w : Nat) (i : Instr), decodeTableWord nbits w = some i →
    step (State.reset.withFetchWord nbits w) = exec i (State.reset.withFetchWord nbits w)
end

