-- ==== Sys2Proof/Laws/Decode.lean ====
section
/-!
SUPPORT. The fields of a byte that the encoder wrote are the fields it was given, and the decoder's cursor
functions read what the encoder's operand functions write.
-/

namespace Sys2Proof

theorem byteTop_fieldByte : ∀ (t : BitVec 2) (m l : BitVec 3), byteTop (fieldByte t m l) = t := by decide
theorem byteMid_fieldByte : ∀ (t : BitVec 2) (m l : BitVec 3), byteMid (fieldByte t m l) = m := by decide
theorem byteLow_fieldByte : ∀ (t : BitVec 2) (m l : BitVec 3), byteLow (fieldByte t m l) = l := by decide

/-- A byte is the join of its three fields. -/
theorem fieldByte_fields : ∀ b : Byte, fieldByte (byteTop b) (byteMid b) (byteLow b) = b := by decide

/-- A register number is its extension bit and its 3-bit field. -/
theorem regNumber_parts : ∀ r : BitVec 4, regNumber 4 (r.getLsbD 3) (r.setWidth 3) = r := by decide
theorem regNumber_ext : ∀ (e : Bool) (f : BitVec 3), (regNumber 4 e f).getLsbD 3 = e := by decide
theorem regNumber_field : ∀ (e : Bool) (f : BitVec 3), (regNumber 4 e f).setWidth 3 = f := by decide
theorem regNumber_mmx : ∀ (e : Bool) (f : BitVec 3), regNumber 3 e f = f := by decide

/-- The byte of a prefix is read as that prefix (rule R63). -/
theorem prefixOfByte_byte (p : LegacyPrefix) : prefixOfByte p.byte = some (.legacy p) := by
  rcases p with _ | _ | (_ | _ | _ | _ | _ | _) <;> decide

/-- A byte read as a prefix is that prefix's byte. -/
theorem byte_of_prefixOfByte {b : Byte} {p : LegacyPrefix} (h : prefixOfByte b = some (.legacy p)) :
    p.byte = b := by
  revert b p
  unfold prefixOfByte
  intro b p h
  repeat' split at h
  all_goals simp_all [LegacyPrefix.byte]
  all_goals (subst h; rfl)

/-- A disp32 is read back (rule R74). -/
theorem decodeDisp32_bytes (d : BitVec 32) (rest : List Byte) :
    decodeDisp32 (disp32Bytes d ++ rest) = some (d, rest) := by
  simp only [disp32Bytes, List.cons_append, List.nil_append, decodeDisp32, Option.some.injEq, Prod.mk.injEq,
    and_true]
  apply BitVec.eq_of_getLsbD_eq
  intro k hk
  rw [@BitVec.getLsbD_append 24 8 k, @BitVec.getLsbD_append 16 8 (k - 8), @BitVec.getLsbD_append 8 8 (k - 8 - 8)]
  simp only [BitVec.getLsbD_extractLsb']
  by_cases h1 : k < 8
  · simp [h1]
  · by_cases h2 : k - 8 < 8
    · simp [h1, h2, show 8 + (k - 8) = k by omega]
    · by_cases h3 : k - 8 - 8 < 8
      · simp [h1, h2, h3, show 16 + (k - 8 - 8) = k by omega]
      · simp [h1, h2, h3, show k - 8 - 8 - 8 < 8 by omega, show 24 + (k - 8 - 8 - 8) = k by omega]

/-- A displacement is read back (rule R73). -/
theorem decodeDisp_bytes (d : Disp) (rest : List Byte) : decodeDisp d.mod (d.bytes ++ rest) = some (d, rest) := by
  cases d with
  | none => rfl
  | d8 d => simp [Disp.mod, Disp.bytes, decodeDisp]
  | d32 d => simp [Disp.mod, Disp.bytes, decodeDisp, decodeDisp32_bytes]

end Sys2Proof
end

