-- ==== Sys2Proof/Laws/Memory.lean ====
section
/-!
SUPPORT. Memory as data: reading after mapping a byte, and that every memory operation keeps the canonical
form.
-/

namespace Sys2Proof.Machine

@[simp] theorem Memory.read?_nil (a : Nat) : Memory.read? [] a = none := rfl

/-- The byte just mapped is the byte read. -/
theorem Memory.read?_set_self (m : Memory) (a : Quad) (b : Byte) : (m.set a b).read? a.toNat = some b := by
  induction m with
  | nil => simp [Memory.set, Memory.read?]
  | cons c rest ih =>
    obtain ⟨k, v⟩ := c
    simp only [Memory.set]
    split
    · simp [Memory.read?]
    · split
      · next h => simp [Memory.read?, h]
      · next h1 h2 => simp [Memory.read?, h1, h2, ih]

/-- Every other address reads as before. -/
theorem Memory.read?_set_other (m : Memory) (a : Quad) (b : Byte) {x : Nat} (hx : x ≠ a.toNat) :
    (m.set a b).read? x = m.read? x := by
  induction m with
  | nil => simp [Memory.set, Memory.read?, hx]
  | cons c rest ih =>
    obtain ⟨k, v⟩ := c
    simp only [Memory.set]
    split
    · next h =>
      rw [Memory.read?, if_neg hx]
      split
      · rw [Memory.read?, if_neg (by omega), if_pos (by omega)]
      · rfl
    · split
      · simp [Memory.read?, show x ≠ k by omega]
      · simp only [Memory.read?, ih]

theorem Memory.risesFrom_mono {m : Memory} {lo lo' : Nat} (h : lo' ≤ lo) (hm : m.risesFrom lo = true) :
    m.risesFrom lo' = true := by
  cases m with
  | nil => rfl
  | cons c rest =>
    obtain ⟨k, v⟩ := c
    simp only [Memory.risesFrom, Bool.and_eq_true, decide_eq_true_eq] at hm ⊢
    exact ⟨by omega, hm.2⟩

theorem Memory.risesFrom_set {m : Memory} {lo : Nat} (a : Quad) (b : Byte) (hm : m.risesFrom lo = true)
    (ha : lo ≤ a.toNat) : (m.set a b).risesFrom lo = true := by
  induction m generalizing lo with
  | nil => simp [Memory.set, Memory.risesFrom, ha]
  | cons c rest ih =>
    obtain ⟨k, v⟩ := c
    simp only [Memory.risesFrom, Bool.and_eq_true, decide_eq_true_eq] at hm
    simp only [Memory.set]
    split
    · simp only [Memory.risesFrom, Bool.and_eq_true, decide_eq_true_eq]
      exact ⟨ha, by omega, hm.2⟩
    · split
      · simpa only [Memory.risesFrom, Bool.and_eq_true, decide_eq_true_eq] using hm
      · simp only [Memory.risesFrom, Bool.and_eq_true, decide_eq_true_eq]
        exact ⟨hm.1, ih hm.2 (by omega)⟩

theorem Memory.bounded_set {m : Memory} (a : Quad) (b : Byte)
    (hm : m.all (fun c => decide (c.1 < 2 ^ 64)) = true) :
    (m.set a b).all (fun c => decide (c.1 < 2 ^ 64)) = true := by
  induction m with
  | nil => simpa [Memory.set] using a.isLt
  | cons c rest ih =>
    obtain ⟨k, v⟩ := c
    have ha := a.isLt
    simp only [List.all_cons, Bool.and_eq_true, decide_eq_true_eq] at hm
    simp only [Memory.set]
    split
    · simp only [List.all_cons, Bool.and_eq_true, decide_eq_true_eq]
      exact ⟨ha, hm.1, hm.2⟩
    · split <;> simp only [List.all_cons, Bool.and_eq_true, decide_eq_true_eq]
      · exact hm
      · exact ⟨hm.1, ih hm.2⟩

/-- Mapping a byte keeps the canonical form. -/
theorem Memory.wf_set {m : Memory} (a : Quad) (b : Byte) (hm : m.wf = true) : (m.set a b).wf = true := by
  simp only [Memory.wf, Bool.and_eq_true] at hm ⊢
  exact ⟨Memory.risesFrom_set a b hm.1 (Nat.zero_le _), Memory.bounded_set a b hm.2⟩

/-- Loading bytes keeps the canonical form. -/
theorem Memory.wf_load {m : Memory} (a : Quad) (bs : List Byte) (hm : m.wf = true) :
    (m.load a bs).wf = true := by
  induction bs generalizing m a with
  | nil => exact hm
  | cons b rest ih => exact ih _ (Memory.wf_set a b hm)

/-- Mapping an operand's bytes keeps the canonical form. -/
theorem Memory.wf_fill {m : Memory} (a : Quad) (n : Nat) (hm : m.wf = true) : (m.fill a n).wf = true := by
  induction n generalizing m a with
  | zero => exact hm
  | succ n ih =>
    simp only [Memory.fill]
    split
    · exact ih _ hm
    · exact ih _ (Memory.wf_set a 0 hm)

/-- A byte that is mapped keeps its value when an operand's bytes are mapped. -/
theorem Memory.read?_fill_some {m : Memory} (a : Quad) (n : Nat) {x : Nat} {v : Byte}
    (h : m.read? x = some v) : (m.fill a n).read? x = some v := by
  induction n generalizing m a with
  | zero => exact h
  | succ n ih =>
    simp only [Memory.fill]
    split
    · exact ih _ h
    · next hn =>
      refine ih _ ?_
      rw [Memory.read?_set_other _ _ _ ?_, h]
      rintro rfl
      simp [hn] at h

/-- A byte outside the loaded range reads as before. -/
theorem Memory.read?_load_other (m : Memory) (a : Quad) (bs : List Byte) {x : Nat}
    (hx : ∀ k < bs.length, x ≠ (a + BitVec.ofNat 64 k).toNat) : (m.load a bs).read? x = m.read? x := by
  induction bs generalizing m a with
  | nil => rfl
  | cons b rest ih =>
    simp only [Memory.load]
    rw [ih, Memory.read?_set_other]
    · simpa using hx 0 (by simp)
    · intro k hk
      have := hx (k + 1) (by simp; omega)
      rwa [show a + 1 + BitVec.ofNat 64 k = a + BitVec.ofNat 64 (k + 1) by
        rw [BitVec.add_assoc]; congr 1; apply BitVec.eq_of_toNat_eq; simp [Nat.add_comm]]

/-- A loaded byte is read back. -/
theorem Memory.read?_load_self (m : Memory) (a : Quad) (bs : List Byte) (hlen : bs.length ≤ 2 ^ 64) {k : Nat}
    (hk : k < bs.length) : (m.load a bs).read? (a + BitVec.ofNat 64 k).toNat = bs[k]? := by
  induction bs generalizing m a k with
  | nil => simp at hk
  | cons b rest ih =>
    simp only [List.length_cons] at hk hlen
    simp only [Memory.load]
    cases k with
    | zero =>
      rw [Memory.read?_load_other]
      · simpa using Memory.read?_set_self m a b
      · intro j hj he
        have : (a + 1 + BitVec.ofNat 64 j) = a + BitVec.ofNat 64 0 := BitVec.eq_of_toNat_eq he.symm
        bv_omega
    | succ j =>
      have := ih (m.set a b) (a + 1) (by omega) (k := j) (by omega)
      rwa [show a + 1 + BitVec.ofNat 64 j = a + BitVec.ofNat 64 (j + 1) by
        rw [BitVec.add_assoc]; congr 1; apply BitVec.eq_of_toNat_eq; simp [Nat.add_comm]] at this

/-- Reset memory is in canonical form. -/
theorem State.reset_mem_wf : State.reset.mem.wf = true := rfl

/-- Loading code keeps the canonical form. -/
theorem State.loadCode_wf {s : State} (m : Mode) (bs : List Byte) (h : s.mem.wf = true) :
    (s.loadCode m bs).mem.wf = true := Memory.wf_load _ _ h

end Sys2Proof.Machine
end

