-- ==== Sys2Proof/Laws/State.lean ====
section
/-!
SUPPORT. One lemma per field per update of State, true by rfl, so that no proof unfolds an update.
-/

namespace Sys2Proof.Machine

@[simp] theorem State.writeMm_rip (s : State) (i : BitVec 3) (v : Quad) :
    (s.writeMm i v).rip = s.rip := rfl
@[simp] theorem State.writeMm_mm (s : State) (i : BitVec 3) (v : Quad) :
    (s.writeMm i v).mm = s.mm.set i.toNat v i.isLt := rfl
@[simp] theorem State.writeMm_ymm (s : State) (i : BitVec 3) (v : Quad) :
    (s.writeMm i v).ymm = s.ymm := rfl
@[simp] theorem State.writeMm_gpr (s : State) (i : BitVec 3) (v : Quad) :
    (s.writeMm i v).gpr = s.gpr := rfl
@[simp] theorem State.writeMm_eflags (s : State) (i : BitVec 3) (v : Quad) :
    (s.writeMm i v).eflags = s.eflags := rfl
@[simp] theorem State.writeMm_mxcsr (s : State) (i : BitVec 3) (v : Quad) :
    (s.writeMm i v).mxcsr = s.mxcsr := rfl
@[simp] theorem State.writeMm_fsw (s : State) (i : BitVec 3) (v : Quad) :
    (s.writeMm i v).fsw = s.fsw &&& 0xC7FF := rfl
@[simp] theorem State.writeMm_ftw (s : State) (i : BitVec 3) (v : Quad) :
    (s.writeMm i v).ftw = 0 := rfl
@[simp] theorem State.writeMm_x87hi (s : State) (i : BitVec 3) (v : Quad) :
    (s.writeMm i v).x87hi = s.x87hi.set i.toNat 0xFFFF i.isLt := rfl
@[simp] theorem State.writeMm_cr0 (s : State) (i : BitVec 3) (v : Quad) :
    (s.writeMm i v).cr0 = s.cr0 := rfl
@[simp] theorem State.writeMm_cr2 (s : State) (i : BitVec 3) (v : Quad) :
    (s.writeMm i v).cr2 = s.cr2 := rfl
@[simp] theorem State.writeMm_cr4 (s : State) (i : BitVec 3) (v : Quad) :
    (s.writeMm i v).cr4 = s.cr4 := rfl
@[simp] theorem State.writeMm_xcr0 (s : State) (i : BitVec 3) (v : Quad) :
    (s.writeMm i v).xcr0 = s.xcr0 := rfl
@[simp] theorem State.writeMm_efer (s : State) (i : BitVec 3) (v : Quad) :
    (s.writeMm i v).efer = s.efer := rfl
@[simp] theorem State.writeMm_code (s : State) (i : BitVec 3) (v : Quad) :
    (s.writeMm i v).code = s.code := rfl
@[simp] theorem State.writeMm_segs (s : State) (i : BitVec 3) (v : Quad) :
    (s.writeMm i v).segs = s.segs := rfl
@[simp] theorem State.writeMm_breakpointsArmed (s : State) (i : BitVec 3) (v : Quad) :
    (s.writeMm i v).breakpointsArmed = s.breakpointsArmed := rfl
@[simp] theorem State.writeMm_features (s : State) (i : BitVec 3) (v : Quad) :
    (s.writeMm i v).features = s.features := rfl
@[simp] theorem State.writeMm_laBits (s : State) (i : BitVec 3) (v : Quad) :
    (s.writeMm i v).laBits = s.laBits := rfl
@[simp] theorem State.writeMm_reportsFetch (s : State) (i : BitVec 3) (v : Quad) :
    (s.writeMm i v).reportsFetch = s.reportsFetch := rfl
@[simp] theorem State.writeMm_denials (s : State) (i : BitVec 3) (v : Quad) :
    (s.writeMm i v).denials = s.denials := rfl
@[simp] theorem State.writeMm_mem (s : State) (i : BitVec 3) (v : Quad) :
    (s.writeMm i v).mem = s.mem := rfl
@[simp] theorem State.writeMm_platform (s : State) (i : BitVec 3) (v : Quad) :
    (s.writeMm i v).platform = s.platform := rfl
@[simp] theorem State.writeMm_openChoices (s : State) (i : BitVec 3) (v : Quad) :
    (s.writeMm i v).openChoices = s.openChoices := rfl

@[simp] theorem State.writeYmm_rip (s : State) (i : BitVec 4) (v : YmmVal) :
    (s.writeYmm i v).rip = s.rip := rfl
@[simp] theorem State.writeYmm_mm (s : State) (i : BitVec 4) (v : YmmVal) :
    (s.writeYmm i v).mm = s.mm := rfl
@[simp] theorem State.writeYmm_ymm (s : State) (i : BitVec 4) (v : YmmVal) :
    (s.writeYmm i v).ymm = s.ymm.set i.toNat v i.isLt := rfl
@[simp] theorem State.writeYmm_gpr (s : State) (i : BitVec 4) (v : YmmVal) :
    (s.writeYmm i v).gpr = s.gpr := rfl
@[simp] theorem State.writeYmm_eflags (s : State) (i : BitVec 4) (v : YmmVal) :
    (s.writeYmm i v).eflags = s.eflags := rfl
@[simp] theorem State.writeYmm_mxcsr (s : State) (i : BitVec 4) (v : YmmVal) :
    (s.writeYmm i v).mxcsr = s.mxcsr := rfl
@[simp] theorem State.writeYmm_fsw (s : State) (i : BitVec 4) (v : YmmVal) :
    (s.writeYmm i v).fsw = s.fsw := rfl
@[simp] theorem State.writeYmm_ftw (s : State) (i : BitVec 4) (v : YmmVal) :
    (s.writeYmm i v).ftw = s.ftw := rfl
@[simp] theorem State.writeYmm_x87hi (s : State) (i : BitVec 4) (v : YmmVal) :
    (s.writeYmm i v).x87hi = s.x87hi := rfl
@[simp] theorem State.writeYmm_cr0 (s : State) (i : BitVec 4) (v : YmmVal) :
    (s.writeYmm i v).cr0 = s.cr0 := rfl
@[simp] theorem State.writeYmm_cr2 (s : State) (i : BitVec 4) (v : YmmVal) :
    (s.writeYmm i v).cr2 = s.cr2 := rfl
@[simp] theorem State.writeYmm_cr4 (s : State) (i : BitVec 4) (v : YmmVal) :
    (s.writeYmm i v).cr4 = s.cr4 := rfl
@[simp] theorem State.writeYmm_xcr0 (s : State) (i : BitVec 4) (v : YmmVal) :
    (s.writeYmm i v).xcr0 = s.xcr0 := rfl
@[simp] theorem State.writeYmm_efer (s : State) (i : BitVec 4) (v : YmmVal) :
    (s.writeYmm i v).efer = s.efer := rfl
@[simp] theorem State.writeYmm_code (s : State) (i : BitVec 4) (v : YmmVal) :
    (s.writeYmm i v).code = s.code := rfl
@[simp] theorem State.writeYmm_segs (s : State) (i : BitVec 4) (v : YmmVal) :
    (s.writeYmm i v).segs = s.segs := rfl
@[simp] theorem State.writeYmm_breakpointsArmed (s : State) (i : BitVec 4) (v : YmmVal) :
    (s.writeYmm i v).breakpointsArmed = s.breakpointsArmed := rfl
@[simp] theorem State.writeYmm_features (s : State) (i : BitVec 4) (v : YmmVal) :
    (s.writeYmm i v).features = s.features := rfl
@[simp] theorem State.writeYmm_laBits (s : State) (i : BitVec 4) (v : YmmVal) :
    (s.writeYmm i v).laBits = s.laBits := rfl
@[simp] theorem State.writeYmm_reportsFetch (s : State) (i : BitVec 4) (v : YmmVal) :
    (s.writeYmm i v).reportsFetch = s.reportsFetch := rfl
@[simp] theorem State.writeYmm_denials (s : State) (i : BitVec 4) (v : YmmVal) :
    (s.writeYmm i v).denials = s.denials := rfl
@[simp] theorem State.writeYmm_mem (s : State) (i : BitVec 4) (v : YmmVal) :
    (s.writeYmm i v).mem = s.mem := rfl
@[simp] theorem State.writeYmm_platform (s : State) (i : BitVec 4) (v : YmmVal) :
    (s.writeYmm i v).platform = s.platform := rfl
@[simp] theorem State.writeYmm_openChoices (s : State) (i : BitVec 4) (v : YmmVal) :
    (s.writeYmm i v).openChoices = s.openChoices := rfl

@[simp] theorem State.writeXmm_rip (s : State) (i : BitVec 4) (v : XmmVal) :
    (s.writeXmm i v).rip = s.rip := rfl
@[simp] theorem State.writeXmm_mm (s : State) (i : BitVec 4) (v : XmmVal) :
    (s.writeXmm i v).mm = s.mm := rfl
@[simp] theorem State.writeXmm_ymm (s : State) (i : BitVec 4) (v : XmmVal) :
    (s.writeXmm i v).ymm = s.ymm.set i.toNat ((s.readYmm i).extractLsb' 128 128 ++ v) i.isLt := rfl
@[simp] theorem State.writeXmm_gpr (s : State) (i : BitVec 4) (v : XmmVal) :
    (s.writeXmm i v).gpr = s.gpr := rfl
@[simp] theorem State.writeXmm_eflags (s : State) (i : BitVec 4) (v : XmmVal) :
    (s.writeXmm i v).eflags = s.eflags := rfl
@[simp] theorem State.writeXmm_mxcsr (s : State) (i : BitVec 4) (v : XmmVal) :
    (s.writeXmm i v).mxcsr = s.mxcsr := rfl
@[simp] theorem State.writeXmm_fsw (s : State) (i : BitVec 4) (v : XmmVal) :
    (s.writeXmm i v).fsw = s.fsw := rfl
@[simp] theorem State.writeXmm_ftw (s : State) (i : BitVec 4) (v : XmmVal) :
    (s.writeXmm i v).ftw = s.ftw := rfl
@[simp] theorem State.writeXmm_x87hi (s : State) (i : BitVec 4) (v : XmmVal) :
    (s.writeXmm i v).x87hi = s.x87hi := rfl
@[simp] theorem State.writeXmm_cr0 (s : State) (i : BitVec 4) (v : XmmVal) :
    (s.writeXmm i v).cr0 = s.cr0 := rfl
@[simp] theorem State.writeXmm_cr2 (s : State) (i : BitVec 4) (v : XmmVal) :
    (s.writeXmm i v).cr2 = s.cr2 := rfl
@[simp] theorem State.writeXmm_cr4 (s : State) (i : BitVec 4) (v : XmmVal) :
    (s.writeXmm i v).cr4 = s.cr4 := rfl
@[simp] theorem State.writeXmm_xcr0 (s : State) (i : BitVec 4) (v : XmmVal) :
    (s.writeXmm i v).xcr0 = s.xcr0 := rfl
@[simp] theorem State.writeXmm_efer (s : State) (i : BitVec 4) (v : XmmVal) :
    (s.writeXmm i v).efer = s.efer := rfl
@[simp] theorem State.writeXmm_code (s : State) (i : BitVec 4) (v : XmmVal) :
    (s.writeXmm i v).code = s.code := rfl
@[simp] theorem State.writeXmm_segs (s : State) (i : BitVec 4) (v : XmmVal) :
    (s.writeXmm i v).segs = s.segs := rfl
@[simp] theorem State.writeXmm_breakpointsArmed (s : State) (i : BitVec 4) (v : XmmVal) :
    (s.writeXmm i v).breakpointsArmed = s.breakpointsArmed := rfl
@[simp] theorem State.writeXmm_features (s : State) (i : BitVec 4) (v : XmmVal) :
    (s.writeXmm i v).features = s.features := rfl
@[simp] theorem State.writeXmm_laBits (s : State) (i : BitVec 4) (v : XmmVal) :
    (s.writeXmm i v).laBits = s.laBits := rfl
@[simp] theorem State.writeXmm_reportsFetch (s : State) (i : BitVec 4) (v : XmmVal) :
    (s.writeXmm i v).reportsFetch = s.reportsFetch := rfl
@[simp] theorem State.writeXmm_denials (s : State) (i : BitVec 4) (v : XmmVal) :
    (s.writeXmm i v).denials = s.denials := rfl
@[simp] theorem State.writeXmm_mem (s : State) (i : BitVec 4) (v : XmmVal) :
    (s.writeXmm i v).mem = s.mem := rfl
@[simp] theorem State.writeXmm_platform (s : State) (i : BitVec 4) (v : XmmVal) :
    (s.writeXmm i v).platform = s.platform := rfl
@[simp] theorem State.writeXmm_openChoices (s : State) (i : BitVec 4) (v : XmmVal) :
    (s.writeXmm i v).openChoices = s.openChoices := rfl

@[simp] theorem State.writeXmmZeroUpper_rip (s : State) (i : BitVec 4) (v : XmmVal) :
    (s.writeXmmZeroUpper i v).rip = s.rip := rfl
@[simp] theorem State.writeXmmZeroUpper_mm (s : State) (i : BitVec 4) (v : XmmVal) :
    (s.writeXmmZeroUpper i v).mm = s.mm := rfl
@[simp] theorem State.writeXmmZeroUpper_ymm (s : State) (i : BitVec 4) (v : XmmVal) :
    (s.writeXmmZeroUpper i v).ymm = s.ymm.set i.toNat (v.setWidth 256) i.isLt := rfl
@[simp] theorem State.writeXmmZeroUpper_gpr (s : State) (i : BitVec 4) (v : XmmVal) :
    (s.writeXmmZeroUpper i v).gpr = s.gpr := rfl
@[simp] theorem State.writeXmmZeroUpper_eflags (s : State) (i : BitVec 4) (v : XmmVal) :
    (s.writeXmmZeroUpper i v).eflags = s.eflags := rfl
@[simp] theorem State.writeXmmZeroUpper_mxcsr (s : State) (i : BitVec 4) (v : XmmVal) :
    (s.writeXmmZeroUpper i v).mxcsr = s.mxcsr := rfl
@[simp] theorem State.writeXmmZeroUpper_fsw (s : State) (i : BitVec 4) (v : XmmVal) :
    (s.writeXmmZeroUpper i v).fsw = s.fsw := rfl
@[simp] theorem State.writeXmmZeroUpper_ftw (s : State) (i : BitVec 4) (v : XmmVal) :
    (s.writeXmmZeroUpper i v).ftw = s.ftw := rfl
@[simp] theorem State.writeXmmZeroUpper_x87hi (s : State) (i : BitVec 4) (v : XmmVal) :
    (s.writeXmmZeroUpper i v).x87hi = s.x87hi := rfl
@[simp] theorem State.writeXmmZeroUpper_cr0 (s : State) (i : BitVec 4) (v : XmmVal) :
    (s.writeXmmZeroUpper i v).cr0 = s.cr0 := rfl
@[simp] theorem State.writeXmmZeroUpper_cr2 (s : State) (i : BitVec 4) (v : XmmVal) :
    (s.writeXmmZeroUpper i v).cr2 = s.cr2 := rfl
@[simp] theorem State.writeXmmZeroUpper_cr4 (s : State) (i : BitVec 4) (v : XmmVal) :
    (s.writeXmmZeroUpper i v).cr4 = s.cr4 := rfl
@[simp] theorem State.writeXmmZeroUpper_xcr0 (s : State) (i : BitVec 4) (v : XmmVal) :
    (s.writeXmmZeroUpper i v).xcr0 = s.xcr0 := rfl
@[simp] theorem State.writeXmmZeroUpper_efer (s : State) (i : BitVec 4) (v : XmmVal) :
    (s.writeXmmZeroUpper i v).efer = s.efer := rfl
@[simp] theorem State.writeXmmZeroUpper_code (s : State) (i : BitVec 4) (v : XmmVal) :
    (s.writeXmmZeroUpper i v).code = s.code := rfl
@[simp] theorem State.writeXmmZeroUpper_segs (s : State) (i : BitVec 4) (v : XmmVal) :
    (s.writeXmmZeroUpper i v).segs = s.segs := rfl
@[simp] theorem State.writeXmmZeroUpper_breakpointsArmed (s : State) (i : BitVec 4) (v : XmmVal) :
    (s.writeXmmZeroUpper i v).breakpointsArmed = s.breakpointsArmed := rfl
@[simp] theorem State.writeXmmZeroUpper_features (s : State) (i : BitVec 4) (v : XmmVal) :
    (s.writeXmmZeroUpper i v).features = s.features := rfl
@[simp] theorem State.writeXmmZeroUpper_laBits (s : State) (i : BitVec 4) (v : XmmVal) :
    (s.writeXmmZeroUpper i v).laBits = s.laBits := rfl
@[simp] theorem State.writeXmmZeroUpper_reportsFetch (s : State) (i : BitVec 4) (v : XmmVal) :
    (s.writeXmmZeroUpper i v).reportsFetch = s.reportsFetch := rfl
@[simp] theorem State.writeXmmZeroUpper_denials (s : State) (i : BitVec 4) (v : XmmVal) :
    (s.writeXmmZeroUpper i v).denials = s.denials := rfl
@[simp] theorem State.writeXmmZeroUpper_mem (s : State) (i : BitVec 4) (v : XmmVal) :
    (s.writeXmmZeroUpper i v).mem = s.mem := rfl
@[simp] theorem State.writeXmmZeroUpper_platform (s : State) (i : BitVec 4) (v : XmmVal) :
    (s.writeXmmZeroUpper i v).platform = s.platform := rfl
@[simp] theorem State.writeXmmZeroUpper_openChoices (s : State) (i : BitVec 4) (v : XmmVal) :
    (s.writeXmmZeroUpper i v).openChoices = s.openChoices := rfl

@[simp] theorem State.retire_rip (s : State) (m : Mode) (n : Nat) :
    (s.retire m n).rip = truncAddr m (s.rip + BitVec.ofNat 64 n) := rfl
@[simp] theorem State.retire_mm (s : State) (m : Mode) (n : Nat) :
    (s.retire m n).mm = s.mm := rfl
@[simp] theorem State.retire_ymm (s : State) (m : Mode) (n : Nat) :
    (s.retire m n).ymm = s.ymm := rfl
@[simp] theorem State.retire_gpr (s : State) (m : Mode) (n : Nat) :
    (s.retire m n).gpr = s.gpr := rfl
@[simp] theorem State.retire_eflags (s : State) (m : Mode) (n : Nat) :
    (s.retire m n).eflags = s.eflags := rfl
@[simp] theorem State.retire_mxcsr (s : State) (m : Mode) (n : Nat) :
    (s.retire m n).mxcsr = s.mxcsr := rfl
@[simp] theorem State.retire_fsw (s : State) (m : Mode) (n : Nat) :
    (s.retire m n).fsw = s.fsw := rfl
@[simp] theorem State.retire_ftw (s : State) (m : Mode) (n : Nat) :
    (s.retire m n).ftw = s.ftw := rfl
@[simp] theorem State.retire_x87hi (s : State) (m : Mode) (n : Nat) :
    (s.retire m n).x87hi = s.x87hi := rfl
@[simp] theorem State.retire_cr0 (s : State) (m : Mode) (n : Nat) :
    (s.retire m n).cr0 = s.cr0 := rfl
@[simp] theorem State.retire_cr2 (s : State) (m : Mode) (n : Nat) :
    (s.retire m n).cr2 = s.cr2 := rfl
@[simp] theorem State.retire_cr4 (s : State) (m : Mode) (n : Nat) :
    (s.retire m n).cr4 = s.cr4 := rfl
@[simp] theorem State.retire_xcr0 (s : State) (m : Mode) (n : Nat) :
    (s.retire m n).xcr0 = s.xcr0 := rfl
@[simp] theorem State.retire_efer (s : State) (m : Mode) (n : Nat) :
    (s.retire m n).efer = s.efer := rfl
@[simp] theorem State.retire_code (s : State) (m : Mode) (n : Nat) :
    (s.retire m n).code = s.code := rfl
@[simp] theorem State.retire_segs (s : State) (m : Mode) (n : Nat) :
    (s.retire m n).segs = s.segs := rfl
@[simp] theorem State.retire_breakpointsArmed (s : State) (m : Mode) (n : Nat) :
    (s.retire m n).breakpointsArmed = s.breakpointsArmed := rfl
@[simp] theorem State.retire_features (s : State) (m : Mode) (n : Nat) :
    (s.retire m n).features = s.features := rfl
@[simp] theorem State.retire_laBits (s : State) (m : Mode) (n : Nat) :
    (s.retire m n).laBits = s.laBits := rfl
@[simp] theorem State.retire_reportsFetch (s : State) (m : Mode) (n : Nat) :
    (s.retire m n).reportsFetch = s.reportsFetch := rfl
@[simp] theorem State.retire_denials (s : State) (m : Mode) (n : Nat) :
    (s.retire m n).denials = s.denials := rfl
@[simp] theorem State.retire_mem (s : State) (m : Mode) (n : Nat) :
    (s.retire m n).mem = s.mem := rfl
@[simp] theorem State.retire_platform (s : State) (m : Mode) (n : Nat) :
    (s.retire m n).platform = s.platform := rfl
@[simp] theorem State.retire_openChoices (s : State) (m : Mode) (n : Nat) :
    (s.retire m n).openChoices = s.openChoices + 1 := rfl

@[simp] theorem State.loadCode_rip (s : State) (m : Mode) (bs : List Byte) :
    (s.loadCode m bs).rip = s.rip := rfl
@[simp] theorem State.loadCode_mm (s : State) (m : Mode) (bs : List Byte) :
    (s.loadCode m bs).mm = s.mm := rfl
@[simp] theorem State.loadCode_ymm (s : State) (m : Mode) (bs : List Byte) :
    (s.loadCode m bs).ymm = s.ymm := rfl
@[simp] theorem State.loadCode_gpr (s : State) (m : Mode) (bs : List Byte) :
    (s.loadCode m bs).gpr = s.gpr := rfl
@[simp] theorem State.loadCode_eflags (s : State) (m : Mode) (bs : List Byte) :
    (s.loadCode m bs).eflags = s.eflags := rfl
@[simp] theorem State.loadCode_mxcsr (s : State) (m : Mode) (bs : List Byte) :
    (s.loadCode m bs).mxcsr = s.mxcsr := rfl
@[simp] theorem State.loadCode_fsw (s : State) (m : Mode) (bs : List Byte) :
    (s.loadCode m bs).fsw = s.fsw := rfl
@[simp] theorem State.loadCode_ftw (s : State) (m : Mode) (bs : List Byte) :
    (s.loadCode m bs).ftw = s.ftw := rfl
@[simp] theorem State.loadCode_x87hi (s : State) (m : Mode) (bs : List Byte) :
    (s.loadCode m bs).x87hi = s.x87hi := rfl
@[simp] theorem State.loadCode_cr0 (s : State) (m : Mode) (bs : List Byte) :
    (s.loadCode m bs).cr0 = s.cr0 := rfl
@[simp] theorem State.loadCode_cr2 (s : State) (m : Mode) (bs : List Byte) :
    (s.loadCode m bs).cr2 = s.cr2 := rfl
@[simp] theorem State.loadCode_cr4 (s : State) (m : Mode) (bs : List Byte) :
    (s.loadCode m bs).cr4 = s.cr4 := rfl
@[simp] theorem State.loadCode_xcr0 (s : State) (m : Mode) (bs : List Byte) :
    (s.loadCode m bs).xcr0 = s.xcr0 := rfl
@[simp] theorem State.loadCode_efer (s : State) (m : Mode) (bs : List Byte) :
    (s.loadCode m bs).efer = s.efer := rfl
@[simp] theorem State.loadCode_code (s : State) (m : Mode) (bs : List Byte) :
    (s.loadCode m bs).code = s.code := rfl
@[simp] theorem State.loadCode_segs (s : State) (m : Mode) (bs : List Byte) :
    (s.loadCode m bs).segs = s.segs := rfl
@[simp] theorem State.loadCode_breakpointsArmed (s : State) (m : Mode) (bs : List Byte) :
    (s.loadCode m bs).breakpointsArmed = s.breakpointsArmed := rfl
@[simp] theorem State.loadCode_features (s : State) (m : Mode) (bs : List Byte) :
    (s.loadCode m bs).features = s.features := rfl
@[simp] theorem State.loadCode_laBits (s : State) (m : Mode) (bs : List Byte) :
    (s.loadCode m bs).laBits = s.laBits := rfl
@[simp] theorem State.loadCode_reportsFetch (s : State) (m : Mode) (bs : List Byte) :
    (s.loadCode m bs).reportsFetch = s.reportsFetch := rfl
@[simp] theorem State.loadCode_denials (s : State) (m : Mode) (bs : List Byte) :
    (s.loadCode m bs).denials = s.denials := rfl
@[simp] theorem State.loadCode_mem (s : State) (m : Mode) (bs : List Byte) :
    (s.loadCode m bs).mem = s.mem.load (s.pc m) bs := rfl
@[simp] theorem State.loadCode_platform (s : State) (m : Mode) (bs : List Byte) :
    (s.loadCode m bs).platform = s.platform := rfl
@[simp] theorem State.loadCode_openChoices (s : State) (m : Mode) (bs : List Byte) :
    (s.loadCode m bs).openChoices = s.openChoices := rfl

@[simp] theorem State.writeMm_cpuMode (s : State) (i : BitVec 3) (v : Quad) :
    (s.writeMm i v).cpuMode = s.cpuMode := rfl
@[simp] theorem State.writeYmm_cpuMode (s : State) (i : BitVec 4) (v : YmmVal) :
    (s.writeYmm i v).cpuMode = s.cpuMode := rfl
@[simp] theorem State.writeXmm_cpuMode (s : State) (i : BitVec 4) (v : XmmVal) :
    (s.writeXmm i v).cpuMode = s.cpuMode := rfl
@[simp] theorem State.writeXmmZeroUpper_cpuMode (s : State) (i : BitVec 4) (v : XmmVal) :
    (s.writeXmmZeroUpper i v).cpuMode = s.cpuMode := rfl
@[simp] theorem State.retire_cpuMode (s : State) (m : Mode) (n : Nat) :
    (s.retire m n).cpuMode = s.cpuMode := rfl
@[simp] theorem State.loadCode_cpuMode (s : State) (m : Mode) (bs : List Byte) :
    (s.loadCode m bs).cpuMode = s.cpuMode := rfl

@[simp] theorem State.writeMm_runMode (s : State) (i : BitVec 3) (v : Quad) :
    (s.writeMm i v).runMode = s.runMode := rfl
@[simp] theorem State.writeYmm_runMode (s : State) (i : BitVec 4) (v : YmmVal) :
    (s.writeYmm i v).runMode = s.runMode := rfl
@[simp] theorem State.writeXmm_runMode (s : State) (i : BitVec 4) (v : XmmVal) :
    (s.writeXmm i v).runMode = s.runMode := rfl
@[simp] theorem State.writeXmmZeroUpper_runMode (s : State) (i : BitVec 4) (v : XmmVal) :
    (s.writeXmmZeroUpper i v).runMode = s.runMode := rfl
@[simp] theorem State.retire_runMode (s : State) (m : Mode) (n : Nat) :
    (s.retire m n).runMode = s.runMode := rfl
@[simp] theorem State.loadCode_runMode (s : State) (m : Mode) (bs : List Byte) :
    (s.loadCode m bs).runMode = s.runMode := rfl

@[simp] theorem State.writeMm_acEnabled (s : State) (i : BitVec 3) (v : Quad) :
    (s.writeMm i v).acEnabled = s.acEnabled := rfl
@[simp] theorem State.writeYmm_acEnabled (s : State) (i : BitVec 4) (v : YmmVal) :
    (s.writeYmm i v).acEnabled = s.acEnabled := rfl
@[simp] theorem State.writeXmm_acEnabled (s : State) (i : BitVec 4) (v : XmmVal) :
    (s.writeXmm i v).acEnabled = s.acEnabled := rfl
@[simp] theorem State.writeXmmZeroUpper_acEnabled (s : State) (i : BitVec 4) (v : XmmVal) :
    (s.writeXmmZeroUpper i v).acEnabled = s.acEnabled := rfl
@[simp] theorem State.retire_acEnabled (s : State) (m : Mode) (n : Nat) :
    (s.retire m n).acEnabled = s.acEnabled := rfl
@[simp] theorem State.loadCode_acEnabled (s : State) (m : Mode) (bs : List Byte) :
    (s.loadCode m bs).acEnabled = s.acEnabled := rfl

@[simp] theorem State.writeMm_enMmx (s : State) (i : BitVec 3) (v : Quad) :
    (s.writeMm i v).enMmx = s.enMmx := rfl
@[simp] theorem State.writeYmm_enMmx (s : State) (i : BitVec 4) (v : YmmVal) :
    (s.writeYmm i v).enMmx = s.enMmx := rfl
@[simp] theorem State.writeXmm_enMmx (s : State) (i : BitVec 4) (v : XmmVal) :
    (s.writeXmm i v).enMmx = s.enMmx := rfl
@[simp] theorem State.writeXmmZeroUpper_enMmx (s : State) (i : BitVec 4) (v : XmmVal) :
    (s.writeXmmZeroUpper i v).enMmx = s.enMmx := rfl
@[simp] theorem State.retire_enMmx (s : State) (m : Mode) (n : Nat) :
    (s.retire m n).enMmx = s.enMmx := rfl
@[simp] theorem State.loadCode_enMmx (s : State) (m : Mode) (bs : List Byte) :
    (s.loadCode m bs).enMmx = s.enMmx := rfl

@[simp] theorem State.writeMm_enSse (s : State) (i : BitVec 3) (v : Quad) :
    (s.writeMm i v).enSse = s.enSse := rfl
@[simp] theorem State.writeYmm_enSse (s : State) (i : BitVec 4) (v : YmmVal) :
    (s.writeYmm i v).enSse = s.enSse := rfl
@[simp] theorem State.writeXmm_enSse (s : State) (i : BitVec 4) (v : XmmVal) :
    (s.writeXmm i v).enSse = s.enSse := rfl
@[simp] theorem State.writeXmmZeroUpper_enSse (s : State) (i : BitVec 4) (v : XmmVal) :
    (s.writeXmmZeroUpper i v).enSse = s.enSse := rfl
@[simp] theorem State.retire_enSse (s : State) (m : Mode) (n : Nat) :
    (s.retire m n).enSse = s.enSse := rfl
@[simp] theorem State.loadCode_enSse (s : State) (m : Mode) (bs : List Byte) :
    (s.loadCode m bs).enSse = s.enSse := rfl

@[simp] theorem State.writeMm_enAvx (s : State) (i : BitVec 3) (v : Quad) :
    (s.writeMm i v).enAvx = s.enAvx := rfl
@[simp] theorem State.writeYmm_enAvx (s : State) (i : BitVec 4) (v : YmmVal) :
    (s.writeYmm i v).enAvx = s.enAvx := rfl
@[simp] theorem State.writeXmm_enAvx (s : State) (i : BitVec 4) (v : XmmVal) :
    (s.writeXmm i v).enAvx = s.enAvx := rfl
@[simp] theorem State.writeXmmZeroUpper_enAvx (s : State) (i : BitVec 4) (v : XmmVal) :
    (s.writeXmmZeroUpper i v).enAvx = s.enAvx := rfl
@[simp] theorem State.retire_enAvx (s : State) (m : Mode) (n : Nat) :
    (s.retire m n).enAvx = s.enAvx := rfl
@[simp] theorem State.loadCode_enAvx (s : State) (m : Mode) (bs : List Byte) :
    (s.loadCode m bs).enAvx = s.enAvx := rfl

@[simp] theorem State.writeMm_ts (s : State) (i : BitVec 3) (v : Quad) :
    (s.writeMm i v).ts = s.ts := rfl
@[simp] theorem State.writeYmm_ts (s : State) (i : BitVec 4) (v : YmmVal) :
    (s.writeYmm i v).ts = s.ts := rfl
@[simp] theorem State.writeXmm_ts (s : State) (i : BitVec 4) (v : XmmVal) :
    (s.writeXmm i v).ts = s.ts := rfl
@[simp] theorem State.writeXmmZeroUpper_ts (s : State) (i : BitVec 4) (v : XmmVal) :
    (s.writeXmmZeroUpper i v).ts = s.ts := rfl
@[simp] theorem State.retire_ts (s : State) (m : Mode) (n : Nat) :
    (s.retire m n).ts = s.ts := rfl
@[simp] theorem State.loadCode_ts (s : State) (m : Mode) (bs : List Byte) :
    (s.loadCode m bs).ts = s.ts := rfl

@[simp] theorem State.writeMm_flat (s : State) (i : BitVec 3) (v : Quad) :
    (s.writeMm i v).flat = s.flat := rfl
@[simp] theorem State.writeYmm_flat (s : State) (i : BitVec 4) (v : YmmVal) :
    (s.writeYmm i v).flat = s.flat := rfl
@[simp] theorem State.writeXmm_flat (s : State) (i : BitVec 4) (v : XmmVal) :
    (s.writeXmm i v).flat = s.flat := rfl
@[simp] theorem State.writeXmmZeroUpper_flat (s : State) (i : BitVec 4) (v : XmmVal) :
    (s.writeXmmZeroUpper i v).flat = s.flat := rfl
@[simp] theorem State.retire_flat (s : State) (m : Mode) (n : Nat) :
    (s.retire m n).flat = s.flat := rfl
@[simp] theorem State.loadCode_flat (s : State) (m : Mode) (bs : List Byte) :
    (s.loadCode m bs).flat = s.flat := rfl

/-- ES of the status word survives an MMX form, which clears TOP only (rule R27). -/
@[simp] theorem State.writeMm_x87Pending (s : State) (i : BitVec 3) (v : Quad) :
    (s.writeMm i v).x87Pending = s.x87Pending := by
  simp [State.x87Pending, State.writeMm]

/-! ## The register files -/

theorem State.readMm_writeMm_self (s : State) (i : BitVec 3) (v : Quad) : (s.writeMm i v).readMm i = v := by
  simp [State.readMm]

theorem State.readMm_writeMm_other (s : State) {i j : BitVec 3} (v : Quad) (h : j ≠ i) :
    (s.writeMm i v).readMm j = s.readMm j := by
  have hne : i.toNat ≠ j.toNat := fun e => h (BitVec.eq_of_toNat_eq e.symm)
  simp [State.readMm, Vector.getElem_set_ne, hne]

theorem State.readYmm_writeYmm_self (s : State) (i : BitVec 4) (v : YmmVal) :
    (s.writeYmm i v).readYmm i = v := by
  simp [State.readYmm]

theorem State.readYmm_writeYmm_other (s : State) {i j : BitVec 4} (v : YmmVal) (h : j ≠ i) :
    (s.writeYmm i v).readYmm j = s.readYmm j := by
  have hne : i.toNat ≠ j.toNat := fun e => h (BitVec.eq_of_toNat_eq e.symm)
  simp [State.readYmm, Vector.getElem_set_ne, hne]

@[simp] theorem State.readMm_retire (s : State) (m : Mode) (n : Nat) (i : BitVec 3) :
    (s.retire m n).readMm i = s.readMm i := rfl

@[simp] theorem State.readYmm_retire (s : State) (m : Mode) (n : Nat) (i : BitVec 4) :
    (s.retire m n).readYmm i = s.readYmm i := rfl

@[simp] theorem State.readYmm_writeMm (s : State) (i : BitVec 3) (v : Quad) (j : BitVec 4) :
    (s.writeMm i v).readYmm j = s.readYmm j := rfl

@[simp] theorem State.readMm_writeYmm (s : State) (i : BitVec 4) (v : YmmVal) (j : BitVec 3) :
    (s.writeYmm i v).readMm j = s.readMm j := rfl

/-- The low half of a register written as two halves. -/
@[simp] theorem low_append (hi lo : XmmVal) : BitVec.extractLsb' 0 128 (hi ++ lo : YmmVal) = lo := by
  apply BitVec.eq_of_getLsbD_eq
  intro k hk
  simp [hk, @BitVec.getLsbD_append 128 128 k hi lo]

/-- The high half of a register written as two halves. -/
@[simp] theorem high_append (hi lo : XmmVal) : BitVec.extractLsb' 128 128 (hi ++ lo : YmmVal) = hi := by
  apply BitVec.eq_of_getLsbD_eq
  intro k hk
  simp [hk, @BitVec.getLsbD_append 128 128 (128 + k) hi lo]

/-- A legacy SSE write replaces bits 127:0 only (rule R23). -/
theorem State.readXmm_writeXmm_self (s : State) (i : BitVec 4) (v : XmmVal) :
    (s.writeXmm i v).readXmm i = v := by
  simp only [State.readXmm, State.writeXmm, State.readYmm_writeYmm_self, low_append]

/-- A legacy SSE write keeps bits 255:128 (rule R23). -/
theorem State.upper_writeXmm_self (s : State) (i : BitVec 4) (v : XmmVal) :
    ((s.writeXmm i v).readYmm i).extractLsb' 128 128 = (s.readYmm i).extractLsb' 128 128 := by
  simp only [State.writeXmm, State.readYmm_writeYmm_self, high_append]

/-- A VEX.128 write clears bits 255:128 (rule R23). -/
theorem State.upper_writeXmmZeroUpper_self (s : State) (i : BitVec 4) (v : XmmVal) :
    ((s.writeXmmZeroUpper i v).readYmm i).extractLsb' 128 128 = 0 := by
  simp only [State.writeXmmZeroUpper, State.readYmm_writeYmm_self]
  ext k hk
  simp

@[simp] theorem State.boot_rip (s : State) : s.boot.rip = s.rip := rfl
@[simp] theorem State.boot_mm (s : State) : s.boot.mm = s.mm := rfl
@[simp] theorem State.boot_ymm (s : State) : s.boot.ymm = s.ymm := rfl
@[simp] theorem State.boot_gpr (s : State) : s.boot.gpr = s.gpr := rfl
@[simp] theorem State.boot_eflags (s : State) : s.boot.eflags = s.eflags &&& 0xFFF9FEFF := rfl
@[simp] theorem State.boot_mxcsr (s : State) : s.boot.mxcsr = s.mxcsr := rfl
@[simp] theorem State.boot_fsw (s : State) : s.boot.fsw = s.fsw &&& 0xFF7F := rfl
@[simp] theorem State.boot_ftw (s : State) : s.boot.ftw = s.ftw := rfl
@[simp] theorem State.boot_x87hi (s : State) : s.boot.x87hi = s.x87hi := rfl
@[simp] theorem State.boot_cr0 (s : State) : s.boot.cr0 = (s.cr0 ||| 0x80000001) &&& 0xFFFFFFFFFFFBFFF3 := rfl
@[simp] theorem State.boot_cr2 (s : State) : s.boot.cr2 = s.cr2 := rfl
@[simp] theorem State.boot_cr4 (s : State) : s.boot.cr4 = s.cr4 ||| 0x40220 := rfl
@[simp] theorem State.boot_xcr0 (s : State) : s.boot.xcr0 = 7 := rfl
@[simp] theorem State.boot_efer (s : State) : s.boot.efer = s.efer ||| 0x500 := rfl
@[simp] theorem State.boot_code (s : State) : s.boot.code = ⟨true, false, s.code.cpl⟩ := rfl
@[simp] theorem State.boot_segs (s : State) : s.boot.segs = Vector.replicate 6 (.plain 0 0xFFFFFFFF) := rfl
@[simp] theorem State.boot_breakpointsArmed (s : State) : s.boot.breakpointsArmed = false := rfl
@[simp] theorem State.boot_features (s : State) : s.boot.features = s.features := rfl
@[simp] theorem State.boot_laBits (s : State) : s.boot.laBits = s.laBits := rfl
@[simp] theorem State.boot_reportsFetch (s : State) : s.boot.reportsFetch = s.reportsFetch := rfl
@[simp] theorem State.boot_denials (s : State) : s.boot.denials = s.denials := rfl
@[simp] theorem State.boot_mem (s : State) : s.boot.mem = s.mem := rfl
@[simp] theorem State.boot_platform (s : State) : s.boot.platform = s.platform := rfl
@[simp] theorem State.boot_openChoices (s : State) : s.boot.openChoices = s.openChoices := rfl

@[simp] theorem State.init_rip (s : State) : s.init.rip = State.reset.rip := rfl
@[simp] theorem State.init_mm (s : State) : s.init.mm = s.mm := rfl
@[simp] theorem State.init_ymm (s : State) : s.init.ymm = s.ymm := rfl
@[simp] theorem State.init_gpr (s : State) : s.init.gpr = State.reset.gpr := rfl
@[simp] theorem State.init_eflags (s : State) : s.init.eflags = State.reset.eflags := rfl
@[simp] theorem State.init_mxcsr (s : State) : s.init.mxcsr = s.mxcsr := rfl
@[simp] theorem State.init_fsw (s : State) : s.init.fsw = s.fsw := rfl
@[simp] theorem State.init_ftw (s : State) : s.init.ftw = s.ftw := rfl
@[simp] theorem State.init_x87hi (s : State) : s.init.x87hi = s.x87hi := rfl
@[simp] theorem State.init_cr0 (s : State) : s.init.cr0 = (s.cr0 &&& 0x60000000) ||| 0x10 := rfl
@[simp] theorem State.init_cr2 (s : State) : s.init.cr2 = State.reset.cr2 := rfl
@[simp] theorem State.init_cr4 (s : State) : s.init.cr4 = State.reset.cr4 := rfl
@[simp] theorem State.init_xcr0 (s : State) : s.init.xcr0 = s.xcr0 := rfl
@[simp] theorem State.init_efer (s : State) : s.init.efer = State.reset.efer := rfl
@[simp] theorem State.init_code (s : State) : s.init.code = State.reset.code := rfl
@[simp] theorem State.init_segs (s : State) : s.init.segs = State.reset.segs := rfl
@[simp] theorem State.init_breakpointsArmed (s : State) : s.init.breakpointsArmed = State.reset.breakpointsArmed := rfl
@[simp] theorem State.init_features (s : State) : s.init.features = s.features := rfl
@[simp] theorem State.init_laBits (s : State) : s.init.laBits = s.laBits := rfl
@[simp] theorem State.init_reportsFetch (s : State) : s.init.reportsFetch = s.reportsFetch := rfl
@[simp] theorem State.init_denials (s : State) : s.init.denials = s.denials := rfl
@[simp] theorem State.init_mem (s : State) : s.init.mem = s.mem := rfl
@[simp] theorem State.init_platform (s : State) : s.init.platform = s.platform := rfl
@[simp] theorem State.init_openChoices (s : State) : s.init.openChoices = s.openChoices := rfl

end Sys2Proof.Machine
end

