-- ==== Sys2Proof/Laws/Ops.lean ====
section
/-!
SUPPORT. For each shared operation, once, everything it can answer. Proofs cite these lemmas and do not
unfold the operations.
-/

namespace Sys2Proof.Machine

/-! ## Outcomes -/

@[simp] theorem finish_ok (s t : State) : finish s (.ok t) = .next t := rfl
@[simp] theorem finish_raise (s : State) (x : Exception) : finish s (.error (.raise x)) = .fault (raise x s) := rfl
@[simp] theorem finish_refuse (s : State) (r : Refusal) : finish s (.error (.refuse r)) = .refused r := rfl

/-- An instruction that answers a next state ran to its end. -/
theorem finish_next {s t : State} {r : Except Stop State} (h : finish s r = .next t) : r = .ok t := by
  rcases r with (x | x) | u
  · simp at h
  · simp at h
  · simpa using h

/-- An instruction that answers a fault raised an exception in the state it began in. -/
theorem finish_fault {s : State} {r : Except Stop State} {f : Fault} (h : finish s r = .fault f) :
    ∃ x, r = .error (.raise x) ∧ f = raise x s := by
  rcases r with (x | x) | u
  · exact ⟨x, rfl, by simpa using h.symm⟩
  · simp at h
  · simp at h

/-- An instruction that is refused was refused by one of its operations. -/
theorem finish_refused {s : State} {r : Except Stop State} {q : Refusal} (h : finish s r = .refused q) :
    r = .error (.refuse q) := by
  rcases r with (x | x) | u
  · simp at h
  · simpa using h
  · simp at h

/-- A raised exception records the state unchanged (rule R130). -/
@[simp] theorem state_raise (x : Exception) (s : State) : (raise x s).state = s := by cases x <;> rfl

/-! ## The checks before the operands -/

/-- A form is admitted only in a mode the model runs and with no exception of rules R121 to R123. -/
theorem admitForm_ok {c : FormClass} {s : State} {m : Mode} (h : admitForm c s = .ok m) :
    s.runMode = .ok m ∧ formException c s = none := by
  simp only [admitForm, admitMode] at h
  cases hm : s.runMode with
  | ok m' =>
    simp only [hm] at h
    cases hx : formException c s with
    | some x => simp [hx] at h
    | none => simpa [hx] using h
  | error r =>
    by_cases hv : (c.isVex && (decide (s.cpuMode = .real) || decide (s.cpuMode = .virtual8086))) = true <;>
      simp [hm, hv] at h

/-- In a mode the model runs, a form without an exception of rules R121 to R123 is admitted. -/
theorem admitForm_of_ready {c : FormClass} {s : State} {m : Mode} (hm : s.runMode = .ok m)
    (hx : formException c s = none) : admitForm c s = .ok m := by
  simp [admitForm, admitMode, hm, hx]

/-- In a mode the model runs, an exception of rules R121 to R123 is raised. -/
theorem admitForm_raise {c : FormClass} {s : State} {m : Mode} {x : Exception} (hm : s.runMode = .ok m)
    (hx : formException c s = some x) : admitForm c s = .error (.raise x) := by
  simp [admitForm, admitMode, hm, hx]

/-! ## The read primitive -/

/-- `MemRead` answers bytes only after every check has passed and `Access` has answered them. -/
theorem memReadBytes_ok {s : State} {m : Mode} {seg : Seg} {ea : Quad} {n : Nat} {al : Bool} {bs : List Byte}
    (h : memReadBytes s m seg ea n al = .ok bs) :
    operandFault s m seg ea n al = none ∧
      (s.acEnabled && decide ((linearAddr s m seg ea).toNat % n ≠ 0)) = false ∧
      access s m .data (linearAddr s m seg ea) n = .ok bs := by
  simp only [memReadBytes] at h
  cases hf : operandFault s m seg ea n al with
  | some x => simp [hf] at h
  | none =>
    simp only [hf] at h
    split at h
    · simp at h
    · next hac =>
      refine ⟨rfl, by simpa using hac, ?_⟩
      cases ha : access s m .data (linearAddr s m seg ea) n with
      | error e => simp [ha] at h
      | ok b => simpa [ha] using h

/-- Steps 2 to 4 of rule R43 pass exactly when nothing is violated. -/
theorem operandFault_none {s : State} {m : Mode} {seg : Seg} {ea : Quad} {n : Nat} {al : Bool} :
    operandFault s m seg ea n al = none ↔
      segmentViolation s m seg ea n = false ∧ alignViolation s m seg ea al = false := by
  simp only [operandFault]
  cases segmentViolation s m seg ea n <;> cases alignViolation s m seg ea al <;> simp <;>
    (repeat' split) <;> simp

/-- Steps 2 to 4 of rule R43 raise nothing but #SS(0) and #GP(0). -/
theorem operandFault_some {s : State} {m : Mode} {seg : Seg} {ea : Quad} {n : Nat} {al : Bool} {x : Exception}
    (h : operandFault s m seg ea n al = some x) : x = .ss ∨ x = .gp := by
  simp only [operandFault] at h
  repeat' split at h
  all_goals simp_all

/-- `Access` answers the bytes that are mapped and not denied. -/
theorem access_ok {s : State} {m : Mode} {kind : AccessKind} {lin : Quad} {n : Nat} {bs : List Byte}
    (h : access s m kind lin n = .ok bs) :
    s.denials.find? (fun d => decide (d.kind = kind ∧ d.lin = lin ∧ d.size = n)) = none ∧
      readBytes s.mem (accessAddrs m lin n) = .ok bs := by
  simp only [access] at h
  split at h
  · simp at h
  · next hd =>
    refine ⟨hd, ?_⟩
    split at h
    · simp at h
    · next b hb => simpa [hb] using h

/-- The bytes read are those mapped, one for each address. -/
theorem readBytes_ok {mem : Memory} {as : List Quad} {bs : List Byte} (h : readBytes mem as = .ok bs) :
    as.map (fun a => mem.read? a.toNat) = bs.map some := by
  induction as generalizing bs with
  | nil => simp only [readBytes, Except.ok.injEq] at h; simp [← h]
  | cons a rest ih =>
    simp only [readBytes] at h
    split at h
    · simp at h
    · next b hb =>
      split at h
      · simp at h
      · next bs' hbs =>
        simp only [Except.ok.injEq] at h
        simp [← h, hb, ih hbs]

/-! ## The execution skeletons: what a completed form did -/

/-- A completed MMX form. -/
theorem runMm_ok {pack : BitVec 64 → BitVec 64 → BitVec 64} {e : LegacyEnc} {d : BitVec 3} {src : Rm 3}
    {s t : State} (h : runMm pack e d src s = .ok t) :
    ∃ m b, admitForm .mmx s = .ok m ∧ mmSource s m e.prefixes (legacyLength e src) src = .ok b ∧
      t = (s.writeMm d (pack (s.readMm d) b)).retire m (legacyLength e src) := by
  simp only [runMm] at h
  cases hm : admitForm .mmx s with
  | error x => simp [hm] at h
  | ok m =>
    simp only [hm] at h
    cases hb : mmSource s m e.prefixes (legacyLength e src) src with
    | error x => simp [hb] at h
    | ok b => exact ⟨m, b, rfl, hb, by simpa [hb] using h.symm⟩

/-- A completed legacy SSE form. -/
theorem runSse_ok {pack : BitVec 128 → BitVec 128 → BitVec 128} {e : LegacyEnc} {d : BitVec 4} {src : Rm 4}
    {s t : State} (h : runSse pack e d src s = .ok t) :
    ∃ m b, admitForm .sse2 s = .ok m ∧ xmmSource s m e.prefixes (legacyLength e src) true src = .ok b ∧
      t = (s.writeXmm d (pack (s.readXmm d) b)).retire m (legacyLength e src) := by
  simp only [runSse] at h
  cases hm : admitForm .sse2 s with
  | error x => simp [hm] at h
  | ok m =>
    simp only [hm] at h
    cases hb : xmmSource s m e.prefixes (legacyLength e src) true src with
    | error x => simp [hb] at h
    | ok b => exact ⟨m, b, rfl, hb, by simpa [hb] using h.symm⟩

/-- A completed VEX.128 form. -/
theorem runVex128_ok {pack : BitVec 128 → BitVec 128 → BitVec 128} {e : VexEnc} {d v : BitVec 4} {src : Rm 4}
    {s t : State} (h : runVex128 pack e d v src s = .ok t) :
    ∃ m b, admitForm .vex128 s = .ok m ∧ xmmSource s m e.prefixes (vexLength e src) false src = .ok b ∧
      t = (s.writeXmmZeroUpper d (pack (s.readXmm v) b)).retire m (vexLength e src) := by
  simp only [runVex128] at h
  cases hm : admitForm .vex128 s with
  | error x => simp [hm] at h
  | ok m =>
    simp only [hm] at h
    cases hb : xmmSource s m e.prefixes (vexLength e src) false src with
    | error x => simp [hb] at h
    | ok b => exact ⟨m, b, rfl, hb, by simpa [hb] using h.symm⟩

/-- A completed VEX.256 form. -/
theorem runVex256_ok {pack : BitVec 256 → BitVec 256 → BitVec 256} {e : VexEnc} {d v : BitVec 4} {src : Rm 4}
    {s t : State} (h : runVex256 pack e d v src s = .ok t) :
    ∃ m b, admitForm .vex256 s = .ok m ∧ ymmSource s m e.prefixes (vexLength e src) src = .ok b ∧
      t = (s.writeYmm d (pack (s.readYmm v) b)).retire m (vexLength e src) := by
  simp only [runVex256] at h
  cases hm : admitForm .vex256 s with
  | error x => simp [hm] at h
  | ok m =>
    simp only [hm] at h
    cases hb : ymmSource s m e.prefixes (vexLength e src) src with
    | error x => simp [hb] at h
    | ok b => exact ⟨m, b, rfl, hb, by simpa [hb] using h.symm⟩

/-! ## The meanings, one inversion for all eight -/

/-- What a completed instruction did: it wrote one destination register and moved `pc`. -/
inductive Completed (i : Instr) (s t : State) : Prop where
  | mm (m : Mode) (d : BitVec 3) (v : Quad) (hm : admitForm .mmx s = .ok m)
      (ht : t = (s.writeMm d v).retire m i.ilen)
  | sse (m : Mode) (d : BitVec 4) (v : XmmVal) (hm : admitForm .sse2 s = .ok m)
      (ht : t = (s.writeXmm d v).retire m i.ilen)
  | vex128 (m : Mode) (d : BitVec 4) (v : XmmVal) (hm : admitForm .vex128 s = .ok m)
      (ht : t = (s.writeXmmZeroUpper d v).retire m i.ilen)
  | vex256 (m : Mode) (d : BitVec 4) (v : YmmVal) (hm : admitForm .vex256 s = .ok m)
      (ht : t = (s.writeYmm d v).retire m i.ilen)

/-- Every completed instruction is one of four shapes. -/
theorem exec_next {i : Instr} {s t : State} (h : exec i s = .next t) : Completed i s t := by
  cases i with
  | packsswbMm e d src =>
    obtain ⟨m, b, hm, -, ht⟩ := runMm_ok (finish_next h); exact .mm m d _ hm ht
  | packssdwMm e d src =>
    obtain ⟨m, b, hm, -, ht⟩ := runMm_ok (finish_next h); exact .mm m d _ hm ht
  | packsswbXmm e d src =>
    obtain ⟨m, b, hm, -, ht⟩ := runSse_ok (finish_next h); exact .sse m d _ hm ht
  | packssdwXmm e d src =>
    obtain ⟨m, b, hm, -, ht⟩ := runSse_ok (finish_next h); exact .sse m d _ hm ht
  | vpacksswbXmm e d v src =>
    obtain ⟨m, b, hm, -, ht⟩ := runVex128_ok (finish_next h); exact .vex128 m d _ hm ht
  | vpackssdwXmm e d v src =>
    obtain ⟨m, b, hm, -, ht⟩ := runVex128_ok (finish_next h); exact .vex128 m d _ hm ht
  | vpacksswbYmm e d v src =>
    obtain ⟨m, b, hm, -, ht⟩ := runVex256_ok (finish_next h); exact .vex256 m d _ hm ht
  | vpackssdwYmm e d v src =>
    obtain ⟨m, b, hm, -, ht⟩ := runVex256_ok (finish_next h); exact .vex256 m d _ hm ht

/-! ## The fetch and the step -/

/-- A step that answers a next state ran an instruction that the fetch decoded. -/
theorem step_next {s t : State} (h : step s = .next t) :
    ∃ m i, s.runMode = .ok m ∧ fetchDecode s m = .ok i ∧ exec i s = .next t := by
  simp only [step] at h
  cases hm : s.runMode with
  | error r => simp [hm] at h
  | ok m =>
    simp only [hm] at h
    cases hi : fetchDecode s m with
    | error e => simp only [hi] at h; cases e <;> simp at h
    | ok i => exact ⟨m, i, rfl, hi, by simpa [hi] using h⟩

/-- The fetch answers an instruction only when the decoder reads it from the bytes at `pc`. -/
theorem fetchDecode_ok {s : State} {m : Mode} {i : Instr} (h : fetchDecode s m = .ok i) :
    ∃ rest, decode m (fetchBytes s m 0 maxInstrBytes).1 = .form i rest := by
  simp only [fetchDecode] at h
  split at h
  · next i' rest hd => exact ⟨rest, by simp_all⟩
  · simp at h
  · simp at h
  · split at h <;> simp at h

end Sys2Proof.Machine
end

