-- ==== Sys2Proof/Laws/Operand.lean ====
section
/-!
SUPPORT. The checks of the read primitive in the terms of Safety, and the other direction of the laws of
Sys2Proof/Laws/Ops.lean: when the read answers bytes, and which byte it stops at; and how a run goes on or ends.
-/

namespace Sys2Proof.Machine

/-- Steps 2 and 3 of rule R43 say what rules R47 and R48 say. -/
theorem segmentViolation_iff (s : State) (m : Mode) (seg : Seg) (ea : Quad) (n : Nat) :
    segmentViolation s m seg ea n = true ↔ SegmentViolated s m seg ea n := by
  cases m
  · simp [segmentViolation, SegmentViolated, segLimitOk, canonicalRange]
  · simp only [segmentViolation, SegmentViolated, segLimitOk]
    simp
    omega

/-- Step 4 of rule R43 says what rule R44 says. -/
theorem alignViolation_iff (s : State) (m : Mode) (seg : Seg) (ea : Quad) (align16 : Bool) :
    alignViolation s m seg ea align16 = true ↔ Misaligned s m seg ea align16 := by
  simp [alignViolation, Misaligned]

/-- Mapped bytes are read. -/
theorem readBytes_mapped {mem : Memory} {addrs : List Quad} {bs : List Byte}
    (h : addrs.map (fun a => mem.read? a.toNat) = bs.map some) : readBytes mem addrs = .ok bs := by
  induction addrs generalizing bs with
  | nil => cases bs <;> simp_all [readBytes]
  | cons a rest ih =>
    cases bs with
    | nil => simp at h
    | cons b bs =>
      simp only [List.map_cons, List.cons.injEq] at h
      simp [readBytes, h.1, ih h.2]

/-- The read stops at the first address that is not mapped. -/
theorem readBytes_unmapped {mem : Memory} {addrs : List Quad} {k : Nat} (hk : k < addrs.length)
    (before : ∀ j (hj : j < k), mem.read? (addrs[j]'(by omega)).toNat ≠ none)
    (here : mem.read? addrs[k].toNat = none) : readBytes mem addrs = .error addrs[k] := by
  induction addrs generalizing k with
  | nil => simp at hk
  | cons a rest ih =>
    cases k with
    | zero => simp only [List.getElem_cons_zero] at here; simp [readBytes, here]
    | succ k =>
      have first := before 0 (by omega)
      simp only [List.getElem_cons_zero] at first
      obtain ⟨b, hb⟩ := Option.ne_none_iff_exists'.1 first
      have later := ih (k := k) (by simpa using hk) (fun j hj => by simpa using before (j + 1) (by omega))
        (by simpa using here)
      simp [readBytes, hb, later]

/-! ## Flat segments (rule R47) -/

/-- What the flat segments of `M32` are, segment by segment. -/
theorem State.flat_iff (s : State) : s.flat = true ↔
    (∀ k : Fin 6, s.segs[k].limit = 0xFFFFFFFF ∧ s.segs[k].nullSelector = false ∧ s.segs[k].expandDown = false ∧
      s.segs[k].readable = true) ∧
    s.segs[0].base = 0 ∧ s.segs[1].base = 0 ∧ s.segs[2].base = 0 ∧ s.segs[3].base = 0 := by
  simp only [State.flat, State.flatSpans, State.plainSegs, Bool.and_eq_true, decide_eq_true_eq, List.all_eq_true,
    Bool.not_eq_true', Vector.mem_toList_iff, Vector.mem_iff_getElem]
  constructor
  · rintro ⟨⟨⟨⟨⟨b0, b1⟩, b2⟩, b3⟩, limits⟩, marks⟩
    refine ⟨fun k => ?_, b0, b1, b2, b3⟩
    obtain ⟨⟨null, down⟩, read⟩ := marks _ ⟨k, k.isLt, rfl⟩
    exact ⟨limits _ ⟨k, k.isLt, rfl⟩, null, down, read⟩
  · rintro ⟨all, b0, b1, b2, b3⟩
    refine ⟨⟨⟨⟨⟨b0, b1⟩, b2⟩, b3⟩, ?_⟩, ?_⟩
    · rintro r ⟨k, hk, rfl⟩; exact (all ⟨k, hk⟩).1
    · rintro r ⟨k, hk, rfl⟩; exact ⟨⟨(all ⟨k, hk⟩).2.1, (all ⟨k, hk⟩).2.2.1⟩, (all ⟨k, hk⟩).2.2.2⟩

/-! ## Runs (rules R152 and R153) -/

/-- Under the launch premises the state runs in the mode they name. -/
theorem runMode_of_launch {s : State} {m : Mode} {text : List Byte} {is : List Instr} (h : Launch s m text is) :
    s.runMode = .ok m := by
  obtain ⟨mode, -, -, -, -, -, ⟨spans, plain⟩, -, ⟨armed, tf, -⟩, -, -⟩ := h
  cases m <;> simp_all [State.runMode, State.flat]

/-- Under the launch premises every form of the program is ready. -/
theorem formReady_of_launch {s : State} {m : Mode} {text : List Byte} {is : List Instr} (h : Launch s m text is)
    {i : Instr} (hi : i ∈ is) : FormReady (formClass i) s m :=
  ⟨runMode_of_launch h, h.2.1 i hi, h.2.2.1 i hi, h.2.2.2.1, fun _ => h.2.2.2.2.1⟩

/-- What ends a run before a step: a state outside the modes, `pc` at the end, or a text cut short. -/
theorem endsBefore_some {stop : Quad} {s : State} {e : RunEnd} (h : endsBefore stop s = some e) :
    (∃ r, s.runMode = .error r ∧ e = .refused r) ∨
      ∃ m, s.runMode = .ok m ∧ (s.pc m = truncAddr m stop ∧ e = .success s ∨
        s.pc m ≠ truncAddr m stop ∧ textEndsInside stop s m = true ∧ e = .textCutShort s) := by
  simp only [endsBefore] at h
  cases hm : s.runMode with
  | error r => simp only [hm, Option.some.injEq] at h; exact .inl ⟨r, rfl, h.symm⟩
  | ok m =>
    simp only [hm] at h
    refine .inr ⟨m, rfl, ?_⟩
    split at h
    · next hp => exact .inl ⟨hp, by simpa using h.symm⟩
    · next hp =>
      split at h
      · next ht => exact .inr ⟨hp, ht, by simpa using h.symm⟩
      · simp at h

/-- A run that ends before its first step ends so for every budget. -/
theorem runTo_ends {stop : Quad} {s : State} {e : RunEnd} (h : endsBefore stop s = some e) (n : Nat) :
    runTo stop n s = e := by
  cases n <;> simp [runTo, h]

/-- A run that goes on takes one step. -/
theorem runTo_step {stop : Quad} {s t : State} (h : endsBefore stop s = none) (hs : step s = .next t) (n : Nat) :
    runTo stop (n + 1) s = runTo stop n t := by
  simp [runTo, h, hs]

end Sys2Proof.Machine
end

