-- ==== Sys2Proof/Laws/PerInstr.lean ====
section
/-!
SUPPORT. Families of facts that hold of every instruction, one lemma per constructor.
-/

namespace Sys2Proof.Laws.EncodeLength

open Sys2Proof

/-- `ilen`, counted as rule R79 says, is the number of bytes the encoder writes. -/
def Statement (i : Instr) : Prop := (encode i).length = i.ilen

theorem disp_bytes_length (d : Disp) : d.bytes.length = d.length := by cases d <;> rfl

theorem encodeRm_length {w : Nat} (reg : BitVec 3) (src : Rm w) : (encodeRm reg src).length = rmLength src := by
  rcases src with r | (⟨b, d⟩ | d | ⟨sc, ix, b, d⟩ | ⟨sc, ix, d⟩) <;>
    simp [encodeRm, rmLength, disp_bytes_length, disp32Bytes] <;> omega

theorem encodeLegacy_length {w : Nat} (op : PackOp) (e : LegacyEnc) (d : BitVec w) (src : Rm w) :
    (encodeLegacy op e d src).length = legacyLength e src := by
  rcases e with ⟨ps, _ | r⟩ <;> simp [encodeLegacy, legacyLength, rexBytes, encodeRm_length] <;> omega

theorem encodeVex_length (op : PackOp) (l : Bool) (e : VexEnc) (d v : BitVec 4) (src : Rm 4) :
    (encodeVex op l e d v src).length = vexLength e src := by
  rcases e with ⟨ps, _ | r⟩ <;> simp [encodeVex, vexLength, vexBytes, encodeRm_length] <;> omega

theorem packsswbMm (e : LegacyEnc) (d : BitVec 3) (src : Rm 3) : Statement (.packsswbMm e d src) :=
  encodeLegacy_length _ e d src

theorem packsswbXmm (e : LegacyEnc) (d : BitVec 4) (src : Rm 4) : Statement (.packsswbXmm e d src) :=
  encodeLegacy_length _ e d src

theorem packssdwMm (e : LegacyEnc) (d : BitVec 3) (src : Rm 3) : Statement (.packssdwMm e d src) :=
  encodeLegacy_length _ e d src

theorem packssdwXmm (e : LegacyEnc) (d : BitVec 4) (src : Rm 4) : Statement (.packssdwXmm e d src) :=
  encodeLegacy_length _ e d src

theorem vpacksswbXmm (e : VexEnc) (d v : BitVec 4) (src : Rm 4) : Statement (.vpacksswbXmm e d v src) :=
  encodeVex_length _ _ e d v src

theorem vpackssdwXmm (e : VexEnc) (d v : BitVec 4) (src : Rm 4) : Statement (.vpackssdwXmm e d v src) :=
  encodeVex_length _ _ e d v src

theorem vpacksswbYmm (e : VexEnc) (d v : BitVec 4) (src : Rm 4) : Statement (.vpacksswbYmm e d v src) :=
  encodeVex_length _ _ e d v src

theorem vpackssdwYmm (e : VexEnc) (d v : BitVec 4) (src : Rm 4) : Statement (.vpackssdwYmm e d v src) :=
  encodeVex_length _ _ e d v src

end Sys2Proof.Laws.EncodeLength
end

