-- ==== Sys2Proof/Tests/Slice0.lean ====
section
/-!
SUPPORT. The model's own tests. Expected words and values are those of spec/95_test_vectors.md and of the worked
examples of rules R100 to R116, or hand calculation from the rule named. First the smoke test of WellFormed, then
the decoder, then one step per instruction, then a witness for the hypotheses of every statement that has some.
-/

namespace Sys2Proof.Tests

open Sys2Proof Sys2Proof.Machine

/-! ## Small states -/

/-- 64-bit mode, everything enabled, nothing mapped. -/
def s64 : State := State.reset.boot

/-- 32-bit protected mode, everything enabled, nothing mapped. -/
def s32 : State := { s64 with code := ⟨false, true, 0⟩, efer := 0 }

/-- Set a general register. -/
def gprSet (s : State) (i : Fin 16) (v : Quad) : State := { s with gpr := s.gpr.set i v i.isLt }

/-- Set an MMX register. -/
def mmSet (s : State) (i : Fin 8) (v : Quad) : State := { s with mm := s.mm.set i v i.isLt }

/-- Set a vector register. -/
def ymmSet (s : State) (i : Fin 16) (v : YmmVal) : State := { s with ymm := s.ymm.set i v i.isLt }

/-- Map bytes. -/
def mapped (s : State) (a : Quad) (bs : List Byte) : State := { s with mem := s.mem.load a bs }

/-- Does the outcome satisfy a test of the next state? -/
def nextIs (o : Host.Outcome State Fault Refusal) (p : State → Bool) : Bool :=
  match o with
  | .next t => p t
  | _ => false

/-- Is the outcome this fault? -/
def faultIs (o : Host.Outcome State Fault Refusal) (f : Fault) : Bool :=
  match o with
  | .fault g => decide (g = f)
  | _ => false

/-- Is the outcome this refusal? -/
def refusedIs (o : Host.Outcome State Fault Refusal) (r : Refusal) : Bool :=
  match o with
  | .refused q => decide (q = r)
  | _ => false

theorem next_of {o : Host.Outcome State Fault Refusal} (h : nextIs o (fun _ => true) = true) :
    ∃ t, o = .next t := by
  cases o with
  | next t => exact ⟨t, rfl⟩
  | fault f => simp [nextIs] at h
  | refused r => simp [nextIs] at h

theorem fault_of {o : Host.Outcome State Fault Refusal} {f : Fault} (h : faultIs o f = true) : o = .fault f := by
  cases o with
  | next t => simp [faultIs] at h
  | fault g => simp only [faultIs, decide_eq_true_eq] at h; rw [h]
  | refused r => simp [faultIs] at h

theorem refused_of {o : Host.Outcome State Fault Refusal} {r : Refusal} (h : refusedIs o r = true) :
    o = .refused r := by
  cases o with
  | next t => simp [refusedIs] at h
  | fault g => simp [refusedIs] at h
  | refused q => simp only [refusedIs, decide_eq_true_eq] at h; rw [h]

/-! ## WellFormed: each check refuses an ill-formed term -/

/-- No prefixes, no REX. -/
def plain : LegacyEnc := ⟨[], none⟩

/-- 66H alone. -/
def opsz : LegacyEnc := ⟨[.opSize], none⟩

/-- A two-byte VEX prefix. -/
def vex2 : VexEnc := ⟨[], none⟩

/-- A three-byte VEX prefix with spare bits. -/
def vex3 (w x b : Bool) : VexEnc := ⟨[], some ⟨w, x, b⟩⟩

theorem test_wf_accepts : wellFormed .m64 (.packsswbMm plain 0 (.reg 1)) = true := by decide
theorem test_wf_prefixes_distinct :
    wellFormed .m64 (.packsswbMm ⟨[.seg .cs, .seg .ds], none⟩ 0 (.reg 1)) = false := by decide
theorem test_wf_mmx_without_opsize : wellFormed .m64 (.packsswbMm opsz 0 (.reg 1)) = false := by decide
theorem test_wf_sse_with_opsize : wellFormed .m64 (.packssdwXmm plain 0 (.reg 1)) = false := by decide
theorem test_wf_vex_without_opsize :
    wellFormed .m64 (.vpackssdwXmm ⟨[.opSize], none⟩ 0 1 (.reg 2)) = false := by decide
theorem test_wf_base_rm_100 : wellFormed .m64 (.packsswbMm plain 0 (.mem (.base 4 .none))) = false := by decide
theorem test_wf_base_rm_101 : wellFormed .m64 (.packsswbMm plain 0 (.mem (.base 5 .none))) = false := by decide
theorem test_wf_sib_base_101 :
    wellFormed .m64 (.packsswbMm plain 0 (.mem (.sib 0 0 5 .none))) = false := by decide
theorem test_wf_spare_x :
    wellFormed .m64 (.packsswbMm ⟨[], some ⟨false, true, false⟩⟩ 0 (.mem (.sib 0 0 0 .none))) = false := by decide
theorem test_wf_spare_b :
    wellFormed .m64 (.packsswbXmm ⟨[.opSize], some ⟨false, false, true⟩⟩ 0 (.reg 1)) = false := by decide
theorem test_wf_low_registers : wellFormed .m64 (.packsswbXmm opsz 9 (.reg 1)) = false := by decide
theorem test_wf_rex_in_m32 :
    wellFormed .m32 (.packsswbXmm ⟨[.opSize], some ⟨false, false, false⟩⟩ 0 (.reg 1)) = false := by decide
theorem test_wf_address16 :
    wellFormed .m32 (.packsswbMm ⟨[.addrSize], none⟩ 0 (.mem (.base 0 .none))) = false := by decide
theorem test_wf_vex2_needs_no_x :
    wellFormed .m64 (.vpacksswbYmm vex2 0 1 (.mem (.sib 0 10 0 .none))) = false := by decide
theorem test_wf_vex2_needs_no_b : wellFormed .m64 (.vpacksswbYmm vex2 0 1 (.reg 10)) = false := by decide
theorem test_wf_vex2_m32_high : wellFormed .m32 (.vpacksswbXmm vex2 8 1 (.reg 2)) = false := by decide
theorem test_wf_vex2_m32_high_v : wellFormed .m32 (.vpacksswbXmm vex2 0 9 (.reg 2)) = false := by decide
theorem test_wf_vex3_spare :
    wellFormed .m64 (.vpacksswbXmm (vex3 false false true) 0 1 (.reg 2)) = false := by decide
theorem test_wf_vex3_m32_high_v :
    wellFormed .m32 (.vpacksswbXmm (vex3 false false false) 0 9 (.reg 2)) = false := by decide
theorem test_wf_vex3_m32_spare_x :
    wellFormed .m32 (.vpacksswbXmm (vex3 false true false) 0 1 (.reg 2)) = false := by decide

/-! ## The decoder: words of spec/95_test_vectors.md section 3 -/

theorem test_decode_packsswbMm : decode .m64 [0x0F, 0x63, 0x18] =
    .form (.packsswbMm plain 3 (.mem (.base 0 .none))) [] := by decide
theorem test_decode_packsswbXmm : decode .m64 [0x66, 0x41, 0x0F, 0x63, 0xC9] =
    .form (.packsswbXmm ⟨[.opSize], some ⟨false, false, false⟩⟩ 1 (.reg 9)) [] := by decide
theorem test_decode_packssdwMm : decode .m64 [0x0F, 0x6B, 0x53, 0x08] =
    .form (.packssdwMm plain 2 (.mem (.base 3 (.d8 8)))) [] := by decide
theorem test_decode_packssdwXmm_sib : decode .m64 [0x66, 0x0F, 0x6B, 0x54, 0xBE, 0x10] =
    .form (.packssdwXmm opsz 2 (.mem (.sib 2 7 6 (.d8 0x10)))) [] := by decide
theorem test_decode_packssdwXmm_rip : decode .m64 [0x66, 0x0F, 0x6B, 0x15, 0x00, 0x01, 0x00, 0x00] =
    .form (.packssdwXmm opsz 2 (.mem (.disp32 0x100))) [] := by decide
theorem test_decode_packssdwXmm_r12 : decode .m64 [0x66, 0x45, 0x0F, 0x6B, 0x04, 0x24] =
    .form (.packssdwXmm ⟨[.opSize], some ⟨false, false, false⟩⟩ 8 (.mem (.sib 0 4 12 .none))) [] := by decide
theorem test_decode_vpacksswbXmm : decode .m64 [0xC5, 0x01, 0x63, 0xC2] =
    .form (.vpacksswbXmm vex2 8 15 (.reg 2)) [] := by decide
theorem test_decode_vpacksswbXmm_w : decode .m64 [0xC4, 0xE1, 0xF1, 0x63, 0xC2] =
    .form (.vpacksswbXmm (vex3 true false false) 0 1 (.reg 2)) [] := by decide
theorem test_decode_vpackssdwXmm : decode .m64 [0xC5, 0xF1, 0x6B, 0xC9] =
    .form (.vpackssdwXmm vex2 1 1 (.reg 1)) [] := by decide
theorem test_decode_vpacksswbYmm : decode .m64 [0xC5, 0xF5, 0x63, 0xC2] =
    .form (.vpacksswbYmm vex2 0 1 (.reg 2)) [] := by decide
theorem test_decode_vpackssdwYmm_m32 : decode .m32 [0xC5, 0xC5, 0x6B, 0xBC, 0x4B, 0x78, 0x56, 0x34, 0x12] =
    .form (.vpackssdwYmm vex2 7 7 (.mem (.sib 1 1 3 (.d32 0x12345678)))) [] := by decide
theorem test_decode_inc_m32 : decode .m32 [0x44, 0x0F, 0x63, 0xC1] = .refuse .notAForm := by decide
theorem test_decode_pp : decode .m64 [0xC5, 0xF0, 0x63, 0xC2] = .refuse .vexOther := by decide
theorem test_decode_map : decode .m64 [0xC4, 0xE2, 0x71, 0x63, 0xC2] = .refuse .vexOther := by decide
theorem test_decode_vex_b_m32 : decode .m32 [0xC4, 0xC1, 0x71, 0x63, 0xC2] = .refuse .vexHighRegister := by decide
theorem test_encode_vpackssdwYmm :
    encode (.vpackssdwYmm (vex3 false false false) 10 11 (.mem (.sib 3 10 9 (.d8 0xFC)))) =
      [0xC4, 0x01, 0x25, 0x6B, 0x54, 0xD1, 0xFC] := by decide

/-! ## One step of each instruction -/

/-- The state `s` with code at `pc`. -/
def code64 (s : State) (bs : List Byte) : State := s.loadCode .m64 bs

theorem test_packsswbMm_mixed :
    nextIs (step (code64 (mmSet (mmSet s64 0 0xFF800080007F0001) 1 0xFFFF80007FFFFF7F) [0x0F, 0x63, 0xC1]))
      (fun t => decide (t.readMm 0 = 0xFF807F80807F7F01 ∧ t.rip = 0xFFF3)) = true := by decide

/-- Source and destination are one register (conflict C7). -/
theorem test_packsswbMm_same :
    nextIs (step (code64 (mmSet s64 0 0xFF800080007F0001) [0x0F, 0x63, 0xC0]))
      (fun t => decide (t.readMm 0 = 0x807F7F01807F7F01 ∧ t.ftw = 0)) = true := by decide

theorem test_packssdwMm :
    nextIs (step (code64 (mmSet (mmSet s64 0 0x0000800000007FFF) 1 0xFFFF7FFFFFFF8000) [0x0F, 0x6B, 0xC1]))
      (fun t => decide (t.readMm 0 = 0x800080007FFF7FFF ∧ t.readMm 1 = 0xFFFF7FFFFFFF8000)) = true := by decide

/-- Step 1 of program P1: a memory source. -/
theorem test_packssdwMm_mem :
    nextIs (step (code64 (mapped (gprSet (mmSet s64 0 0x00000080FFFFFF7F) 0 0x2000) 0x2000
        [0x41, 0, 0, 0, 0xC0, 0xFF, 0xFF, 0xFF]) [0x0F, 0x6B, 0x00]))
      (fun t => decide (t.readMm 0 = 0xFFC000410080FF7F)) = true := by decide

theorem test_packsswbXmm_keeps_upper :
    nextIs (step (code64
        (ymmSet (ymmSet s64 0 0xA5A5A5A5A5A5A5A5A5A5A5A5A5A5A5A5FFFF80007FFFFF7FFF800080007F0001)
          1 0x0041FF8100FFFF000100FFFE00020000) [0x66, 0x0F, 0x63, 0xC1]))
      (fun t => decide (t.readYmm 0 = 0xA5A5A5A5A5A5A5A5A5A5A5A5A5A5A5A541817F807FFE0200FF807F80807F7F01)) =
      true := by decide

theorem test_packssdwXmm :
    nextIs (step (code64 (ymmSet (ymmSet s64 0 0xFFFF80000000800000007FFF00000001)
          1 0xFFFFFFFF800000007FFFFFFFFFFF7FFF) [0x66, 0x0F, 0x6B, 0xC1]))
      (fun t => decide (t.readXmm 0 = 0xFFFF80007FFF800080007FFF7FFF0001 ∧ t.rip = 0xFFF4)) = true := by decide

/-- Vector 1 of section 2.7: a misaligned operand. -/
theorem test_packssdwXmm_misaligned :
    (match step (code64 (gprSet s64 3 0x5008) [0x66, 0x0F, 0x6B, 0x13]) with
      | .fault f => decide (f.vector = 13 ∧ f.errorCode = some 0 ∧ f.state.rip = 0xFFF0)
      | _ => false) = true := by decide

theorem test_vpacksswbXmm_zeroes_upper :
    nextIs (step (code64 (ymmSet (ymmSet (ymmSet s64 0 (BitVec.allOnes 256))
          1 0xFFFF80007FFFFF7FFF800080007F0001) 2 0x0041FF8100FFFF000100FFFE00020000) [0xC5, 0xF1, 0x63, 0xC2]))
      (fun t => decide (t.readYmm 0 = 0x41817F807FFE0200FF807F80807F7F01)) = true := by decide

theorem test_vpackssdwXmm_one_register :
    nextIs (step (code64 (ymmSet s64 1 0x1FFFF80000000800000007FFF00000001) [0xC5, 0xF1, 0x6B, 0xC9]))
      (fun t => decide (t.readYmm 1 = 0x80007FFF7FFF000180007FFF7FFF0001)) = true := by decide

theorem test_vpacksswbYmm_lanes :
    nextIs (step (code64
        (ymmSet (ymmSet s64 1 0x0108010701060105010401030102010100080007000600050004000300020001)
          2 0xFEF8FEF9FEFAFEFBFEFCFEFDFEFEFEFFFFF8FFF9FFFAFFFBFFFCFFFDFFFEFFFF) [0xC5, 0xF5, 0x63, 0xC2]))
      (fun t => decide (t.readYmm 0 = 0x80808080808080807F7F7F7F7F7F7F7FF8F9FAFBFCFDFEFF0807060504030201)) =
      true := by decide

theorem test_vpackssdwYmm_lanes :
    nextIs (step (code64
        (ymmSet (ymmSet s64 1 0xFFFFFFFCFFFEFFFD000100020001000100000004000000030000000200000001)
          2 0xFFFF7FFFFFFF80000000800000007FFFFFFFFFFCFFFFFFFDFFFFFFFEFFFFFFFF) [0xC5, 0xF5, 0x6B, 0xC2]))
      (fun t => decide (t.readYmm 0 = 0x800080007FFF7FFFFFFC80007FFF7FFFFFFCFFFDFFFEFFFF0004000300020001)) =
      true := by decide

/-- Section 2.6, the sum truncated to 32 bits: `[esi+edi*8]` with ESI = FFFFFFF8H and EDI = 1. -/
theorem test_address_wraps_m32 :
    effectiveAddr (gprSet (gprSet s32 6 0xFFFFFFF8) 7 1) .m32 .a32 0 (.sib 3 7 6 .none) = 0 := by decide

/-- Section 2.6, `[rip+100H]` at 400FF8H with 8 bytes. -/
theorem test_address_rip : effectiveAddr s64 .m64 .a64 0x401000 (.disp32 0x100) = 0x401100 := by decide

/-- Section 2.1 at its boundaries. -/
theorem test_sat_word : satSW2SB 0x007F = 0x7F ∧ satSW2SB 0x0080 = 0x7F ∧ satSW2SB 0x00FF = 0x7F ∧
    satSW2SB 0xFF80 = 0x80 ∧ satSW2SB 0xFF7F = 0x80 ∧ satSW2SB 0xFF81 = 0x81 := by decide
theorem test_sat_dword : satSD2SW 0x00007FFF = 0x7FFF ∧ satSD2SW 0x00008000 = 0x7FFF ∧
    satSD2SW 0xFFFF8000 = 0x8000 ∧ satSD2SW 0xFFFF7FFF = 0x8000 ∧ satSD2SW 0xFFFF8001 = 0x8001 := by decide

/-! ## Witnesses: the hypotheses of each statement can be met -/

/-- The shortest and the longest instruction: 3 and 12 bytes. -/
def shortest : Instr := .packsswbMm plain 0 (.reg 1)
def longest : Instr :=
  .packssdwXmm ⟨[.addrSize, .seg .fs, .opSize], some ⟨true, false, false⟩⟩ 9 (.mem (.sib 3 10 9 (.d32 0x80000000)))

/-- A VEX form with both of its legacy prefixes. -/
def vexPrefixed : Instr := .vpackssdwYmm ⟨[.addrSize, .seg .gs], some ⟨true, false, false⟩⟩ 15 14 (.reg 13)

theorem witness_DecodeReadsEncode : wellFormed .m64 longest = true ∧ wellFormed .m32 shortest = true := by decide
theorem witness_EncodeWritesDecoded : decode .m64 [0x0F, 0x63, 0xC1, 0xFF] = .form shortest [0xFF] := by decide
theorem witness_LengthIsThreeToTwelve : wellFormed .m64 shortest = true ∧ (encode shortest).length = 3 ∧
    wellFormed .m64 longest = true ∧ (encode longest).length = 12 := by decide
theorem witness_LockIsUndefined : wellFormed .m64 longest = true ∧ 0 ≤ (legacyPrefixes longest).length ∧
    3 ≤ (legacyPrefixes longest).length := by decide
theorem witness_PrefixBeforeVexIsUndefined : wellFormed .m64 vexPrefixed = true ∧
    (formClass vexPrefixed).isVex = true ∧ 0 ≤ (legacyPrefixes vexPrefixed).length ∧
    2 ≤ (legacyPrefixes vexPrefixed).length := by decide
theorem witness_RefusedEncodings : prefixesDistinct [.opSize, .addrSize, .seg .cs] = true ∧
    LegacyPrefix.opSize ∈ [.opSize, .addrSize, LegacyPrefix.seg .cs] ∧ sameKind .opSize .opSize = true ∧
    LegacyPrefix.seg .cs ∈ [.opSize, .addrSize, LegacyPrefix.seg .cs] ∧ sameKind (.seg .gs) (.seg .cs) = true ∧
    some 3 ≠ none ∧ (0x66 : Byte) ≠ 0x0F ∧ (0x66 : Byte) ≠ 0xC4 ∧ (0x66 : Byte) ≠ 0xC5 ∧
    prefixesDistinct [.addrSize, .seg .gs] = true ∧ LegacyPrefix.opSize ∉ [.addrSize, LegacyPrefix.seg .gs] ∧
    byteTop 0xC1 = 3 := by decide
theorem witness_VexByteIn32BitMode : prefixesDistinct [.opSize, .addrSize, .seg .cs] = true ∧
    (0xBF : Byte).extractLsb' 6 2 ≠ 3#2 ∧ (0xC0 : Byte).extractLsb' 6 2 = 3#2 := by decide
theorem witness_RegisterNumbersByMode :
    wellFormed .m32 (.vpacksswbXmm vex2 7 7 (.reg 7)) = true ∧ vecDest (.vpacksswbXmm vex2 7 7 (.reg 7)) = some 7 ∧
    7 ∈ vecSources (.vpacksswbXmm vex2 7 7 (.reg 7)) ∧ wellFormed .m64 vexPrefixed = true ∧
    vecDest vexPrefixed = some 15 ∧ 14 ∈ vecSources vexPrefixed := by decide
theorem witness_SixteenBitAddressingRefused : prefixesDistinct [.opSize, .addrSize] = true ∧
    LegacyPrefix.addrSize ∈ [.opSize, LegacyPrefix.addrSize] ∧ byteTop 0x00 ≠ 3 ∧ byteTop 0xBF ≠ 3 ∧
    prefixesDistinct [.addrSize, .seg .gs] = true ∧ LegacyPrefix.addrSize ∈ [.addrSize, LegacyPrefix.seg .gs] ∧
    LegacyPrefix.opSize ∉ [.addrSize, LegacyPrefix.seg .gs] ∧ byteTop 0xF1 = 3 ∧
    (0xF1 : Byte).extractLsb' 0 2 = 1#2 := by decide
theorem witness_SixteenBitAddressingRefused_vex3 : (0xE1 : Byte).extractLsb' 5 3 = 7#3 ∧
    (0xE1 : Byte).extractLsb' 0 5 = 1#5 ∧ (0x71 : Byte).getLsbD 6 = true ∧
    (0x71 : Byte).extractLsb' 0 2 = 1#2 := by decide
theorem witness_SixteenBitAddressingRefused_exec :
    FormReady (formClass (.packsswbMm ⟨[.addrSize], none⟩ 0 (.mem (.base 0 .none)))) s32 .m32 ∧
    operandOf (.packsswbMm ⟨[.addrSize], none⟩ 0 (.mem (.base 0 .none))) =
      some (.base 0 .none, [.addrSize], 8) ∧ LegacyPrefix.addrSize ∈ [LegacyPrefix.addrSize] := by decide

theorem witness_WordSaturatesToByte : 127 < (0x0080 : BitVec 16).toInt ∧ (0xFF7F : BitVec 16).toInt < -128 ∧
    (0x007F : BitVec 16).toInt ≤ 127 ∧ -128 ≤ (0xFF80 : BitVec 16).toInt := by decide
theorem witness_DwordSaturatesToWord : 32767 < (0x00008000 : BitVec 32).toInt ∧
    (0xFFFF7FFF : BitVec 32).toInt < -32768 ∧ (0x00007FFF : BitVec 32).toInt ≤ 32767 ∧
    -32768 ≤ (0xFFFF8000 : BitVec 32).toInt := by decide
theorem witness_SaturationLaws : (0x8000 : BitVec 16).toInt ≤ (0x7FFF : BitVec 16).toInt ∧
    (0x80000000 : BitVec 32).toInt ≤ (0x7FFFFFFF : BitVec 32).toInt := by decide

/-- 32 bytes at 2003H, RAX = 2003H; and 16 bytes at 2010H, RAX = 2010H. -/
def sMem : State := mapped (gprSet s64 0 0x2003) 0x2003 (List.replicate 32 0x81)
def sMem16 : State := mapped (gprSet s64 0 0x2010) 0x2010 (List.replicate 16 0x81)
def atRax : MemOperand := .base 0 .none

theorem witness_PacksswbMmResult : FormReady .mmx s64 .m64 ∧
    MmOperandIs s64 .m64 [] 3 (.reg 1) 0 ∧ FormReady .mmx sMem .m64 ∧
    MmOperandIs sMem .m64 [] 3 (.mem atRax) 0x8181818181818181 :=
  ⟨by decide, by unfold MmOperandIs; decide, by decide,
    ⟨List.replicate 8 0x81, ⟨.a64, by decide, by decide⟩, by decide⟩⟩
theorem witness_PackssdwMmResult : FormReady .mmx s32 .m32 ∧ MmOperandIs s32 .m32 [] 3 (.reg 7) 0 ∧
    FormReady .mmx sMem .m64 ∧ MmOperandIs sMem .m64 [] 3 (.mem atRax) 0x8181818181818181 :=
  ⟨by decide, by unfold MmOperandIs; decide, by decide,
    ⟨List.replicate 8 0x81, ⟨.a64, by decide, by decide⟩, by decide⟩⟩
theorem witness_PacksswbXmmResult : FormReady .sse2 s64 .m64 ∧ XmmOperandIs s64 .m64 [.opSize] 4 true (.reg 15) 0 ∧
    FormReady .sse2 sMem16 .m64 ∧
    XmmOperandIs sMem16 .m64 [.opSize] 4 true (.mem atRax) 0x81818181818181818181818181818181 :=
  ⟨by decide, by unfold XmmOperandIs; decide, by decide,
    ⟨List.replicate 16 0x81, ⟨.a64, by decide, by decide⟩, by decide⟩⟩
theorem witness_PackssdwXmmResult : FormReady .sse2 s32 .m32 ∧ XmmOperandIs s32 .m32 [.opSize] 4 true (.reg 7) 0 ∧
    FormReady .sse2 sMem16 .m64 ∧
    XmmOperandIs sMem16 .m64 [.opSize] 4 true (.mem atRax) 0x81818181818181818181818181818181 :=
  ⟨by decide, by unfold XmmOperandIs; decide, by decide,
    ⟨List.replicate 16 0x81, ⟨.a64, by decide, by decide⟩, by decide⟩⟩
theorem witness_VpacksswbXmmResult : FormReady .vex128 s64 .m64 ∧ XmmOperandIs s64 .m64 [] 4 false (.reg 2) 0 ∧
    FormReady .vex128 sMem .m64 ∧
    XmmOperandIs sMem .m64 [] 4 false (.mem atRax) 0x81818181818181818181818181818181 :=
  ⟨by decide, by unfold XmmOperandIs; decide, by decide,
    ⟨List.replicate 16 0x81, ⟨.a64, by decide, by decide⟩, by decide⟩⟩
theorem witness_VpackssdwXmmResult : FormReady .vex128 s32 .m32 ∧ XmmOperandIs s32 .m32 [] 4 false (.reg 2) 0 ∧
    FormReady .vex128 sMem .m64 ∧
    XmmOperandIs sMem .m64 [] 4 false (.mem atRax) 0x81818181818181818181818181818181 :=
  ⟨by decide, by unfold XmmOperandIs; decide, by decide,
    ⟨List.replicate 16 0x81, ⟨.a64, by decide, by decide⟩, by decide⟩⟩
theorem witness_VpacksswbYmmResult : FormReady .vex256 s64 .m64 ∧ YmmOperandIs s64 .m64 [] 4 (.reg 2) 0 ∧
    FormReady .vex256 sMem .m64 ∧ YmmOperandIs sMem .m64 [] 4 (.mem atRax)
      0x8181818181818181818181818181818181818181818181818181818181818181 :=
  ⟨by decide, by unfold YmmOperandIs; decide, by decide,
    ⟨List.replicate 32 0x81, ⟨.a64, by decide, by decide⟩, by decide⟩⟩
theorem witness_VpackssdwYmmResult : FormReady .vex256 s32 .m32 ∧ YmmOperandIs s32 .m32 [] 4 (.reg 2) 0 ∧
    FormReady .vex256 sMem .m64 ∧ YmmOperandIs sMem .m64 [] 4 (.mem atRax)
      0x8181818181818181818181818181818181818181818181818181818181818181 :=
  ⟨by decide, by unfold YmmOperandIs; decide, by decide,
    ⟨List.replicate 32 0x81, ⟨.a64, by decide, by decide⟩, by decide⟩⟩

/-- A register form of each class. -/
def mmReg : Instr := .packssdwMm plain 7 (.reg 1)
def sseReg : Instr := .packssdwXmm opsz 3 (.reg 1)
def vexReg : Instr := .vpackssdwXmm vex2 3 12 (.reg 7)

theorem witness_FormsWriteOnlyTheirDestination : (∃ t, exec mmReg s64 = .next t) ∧ mmDest mmReg ≠ some 0 ∧
    (∃ t, exec sseReg s64 = .next t) ∧ vecDest sseReg ≠ some 15 ∧ mmDest sseReg = none :=
  ⟨next_of (by decide), by decide, next_of (by decide), by decide, by decide⟩
theorem witness_UpperHalfByClass : (∃ t, exec sseReg s64 = .next t) ∧ vecDest sseReg = some 3 ∧
    formClass sseReg = .sse2 ∧ (∃ t, exec vexReg s64 = .next t) ∧ vecDest vexReg = some 3 ∧
    formClass vexReg = .vex128 :=
  ⟨next_of (by decide), by decide, by decide, next_of (by decide), by decide, by decide⟩
theorem witness_MmxFormsMarkX87State : (∃ t, exec mmReg s64 = .next t) ∧ mmDest mmReg = some 7 :=
  ⟨next_of (by decide), by decide⟩
theorem witness_VexDestinationIsNotRead : (formClass vexReg).isVex = true ∧ vecDest vexReg = some 3 ∧
    3 ∉ vecSources vexReg ∧ ∃ t, exec vexReg s64 = .next t :=
  ⟨by decide, by decide, by decide, next_of (by decide)⟩

/-- A state in which every class raises #NM, and one in which every operand is unmapped. -/
def sTs : State := { s64 with cr0 := s64.cr0 ||| 8 }

theorem witness_OutcomeIgnoresRegisterData : (∃ t, exec mmReg s64 = .next t) ∧
    exec mmReg sTs = .fault (.nm sTs) ∧ exec mmReg State.reset = .refused (.modeNotModelled .real) :=
  ⟨next_of (by decide), fault_of (by decide), refused_of (by decide)⟩
theorem witness_StepKeepsParameters : ∃ t, step (code64 s64 [0x0F, 0x63, 0xC1]) = .next t := next_of (by decide)

/-- No AVX, in `M32`: the clauses of the invariant that have a condition. -/
def sNoAvx : State := { s32 with features := ⟨true, true, false, false⟩ }

theorem witness_StepKeepsInv : (code64 s64 [0x0F, 0x63, 0xC1]).Inv ∧
    (∃ t, step (code64 s64 [0x0F, 0x63, 0xC1]) = .next t) ∧ (sNoAvx.loadCode .m32 [0x66, 0x0F, 0x63, 0xC1]).Inv ∧
    ∃ t, step (sNoAvx.loadCode .m32 [0x66, 0x0F, 0x63, 0xC1]) = .next t :=
  ⟨by decide, next_of (by decide), by decide, next_of (by decide)⟩

theorem witness_MissingFeatureIsUndefined : sNoAvx.runMode = .ok .m32 ∧
    (formClass vexReg).hasFlag sNoAvx.features = false ∧ ({ s64 with cr4 := 0 } : State).runMode = .ok .m64 ∧
    (formClass sseReg).enabled { s64 with cr4 := 0 } = false := by decide
/-- A 16-bit code segment. -/
def s16 : State := { s32 with code := ⟨false, false, 0⟩ }

theorem witness_FormsOutsideProtectedMode : State.reset.cpuMode = .real ∧
    ({ s64 with eflags := 0x20002 } : State).cpuMode = .virtual8086 ∧ (formClass vexReg).isVex = true ∧
    (formClass mmReg).isVex = false ∧ s16.cpuMode = .other := by decide
/-- The `M32` state with segment `k` replaced is in `M32`, with no debug event, and refused for that segment alone. -/
abbrev sSegs (k : Fin 6) (r : SegReg) : Prop :=
  let s : State := { s32 with segs := s32.segs.set k r }
  s.cpuMode = .prot32 ∧ s.eflags.getLsbD 8 = false ∧ s.breakpointsArmed = false ∧ s.flatSpans = true ∧
    s.segs[k] = r ∧ s.runMode = .error .segmentsNotFlat
theorem witness_UnmodelledStatesRefused : State.reset.cpuMode ≠ .long64 ∧ State.reset.cpuMode ≠ .prot32 ∧
    s16.cpuMode = .other ∧ ({ s64 with eflags := 0x102 } : State).cpuMode = .long64 ∧
    ({ s64 with eflags := 0x102 } : State).eflags.getLsbD 8 = true ∧
    ({ s32 with breakpointsArmed := true } : State).cpuMode = .prot32 ∧
    ({ s32 with segs := State.reset.segs } : State).cpuMode = .prot32 ∧
    ({ s32 with segs := State.reset.segs } : State).eflags.getLsbD 8 = false ∧
    ({ s32 with segs := State.reset.segs } : State).breakpointsArmed = false ∧
    ({ s32 with segs := State.reset.segs } : State).segs[1].base ≠ 0 ∧
    sSegs 3 { SegReg.plain 0 0xFFFFFFFF with nullSelector := true } ∧
    sSegs 2 { SegReg.plain 0 0xFFFFFFFF with expandDown := true } ∧
    sSegs 1 { SegReg.plain 0 0xFFFFFFFF with readable := false } := by decide
/-- In `M64` no segment's marks are consulted (rule R47). -/
theorem test_m64_ignores_segment_marks :
    ({ s64 with segs := s64.segs.set 3 { SegReg.plain 0 0xFFFFFFFF with nullSelector := true } } : State).runMode =
      .ok .m64 := by decide
theorem witness_TaskSwitchedIsNotAvailable : sTs.runMode = .ok .m64 ∧
    (formClass vexReg).hasFlag sTs.features = true ∧ (formClass vexReg).enabled sTs = true ∧
    sTs.cr0.getLsbD 3 = true := by decide
theorem witness_PendingX87StopsMmxForms : ({ s64 with fsw := 0x80 } : State).runMode = .ok .m64 ∧
    formClass mmReg = .mmx ∧ s64.features.hasMmx = true ∧ ({ s64 with fsw := 0x80 } : State).enMmx = true ∧
    ({ s64 with fsw := 0x80 } : State).ts = false ∧ ({ s64 with fsw := 0x80 } : State).x87Pending = true ∧
    formClass vexReg ≠ .mmx ∧ (∃ t, step (code64 s64 [0x0F, 0x63, 0xC1]) = .next t) ∧
    (code64 s64 [0x0F, 0x63, 0xC1]).x87Pending = false :=
  ⟨by decide, by decide, by decide, by decide, by decide, by decide, by decide, next_of (by decide), by decide⟩

/-- `PACKSSWB mm3, [rax]`, `PACKSSDW xmm2, [rsp]` and `PACKSSDW xmm2, [rbx]`. -/
def mmRax : Instr := .packsswbMm plain 3 (.mem atRax)
def sseRsp : Instr := .packssdwXmm opsz 2 (.mem (.sib 0 4 4 .none))
def sseRbx : Instr := .packssdwXmm opsz 2 (.mem (.base 3 .none))

/-- Vectors 3 to 6 of section 2.7, and the limit in `M32` one byte too high. -/
theorem witness_SegmentViolationFaults :
    FormReady (formClass mmRax) (gprSet s64 0 0x00007FFFFFFFFFF9) .m64 ∧
    memTarget mmRax (gprSet s64 0 0x00007FFFFFFFFFF9) .m64 = some (.ds, 0x00007FFFFFFFFFF9) ∧
    SegmentViolated (gprSet s64 0 0x00007FFFFFFFFFF9) .m64 .ds 0x00007FFFFFFFFFF9 8 ∧
    FormReady (formClass mmRax) (gprSet s32 0 0xFFFFFFF9) .m32 ∧
    memTarget mmRax (gprSet s32 0 0xFFFFFFF9) .m32 = some (.ds, 0xFFFFFFF9) ∧
    SegmentViolated (gprSet s32 0 0xFFFFFFF9) .m32 .ds 0xFFFFFFF9 8 ∧
    FormReady (formClass sseRsp) (gprSet s64 4 0x0000800000000000) .m64 ∧
    memTarget sseRsp (gprSet s64 4 0x0000800000000000) .m64 = some (.ss, 0x0000800000000000) ∧
    SegmentViolated (gprSet s64 4 0x0000800000000000) .m64 .ss 0x0000800000000000 16 ∧
    ¬Misaligned (gprSet s64 4 0x0000800000000000) .m64 .ss 0x0000800000000000 true := by decide
theorem witness_MisalignedLegacySseFaults : FormReady (formClass sseRbx) (gprSet s64 3 0x5001) .m64 ∧
    formClass sseRbx = .sse2 ∧ memTarget sseRbx (gprSet s64 3 0x5001) .m64 = some (.ds, 0x5001) ∧
    ¬SegmentViolated (gprSet s64 3 0x5001) .m64 .ds 0x5001 16 ∧
    (linearAddr (gprSet s64 3 0x5001) .m64 .ds 0x5001).toNat % 16 ≠ 0 := by decide
theorem witness_StackAndAlignmentViolation :
    FormReady (formClass sseRsp) (gprSet s64 4 0x0000800000000008) .m64 ∧ formClass sseRsp = .sse2 ∧
    memTarget sseRsp (gprSet s64 4 0x0000800000000008) .m64 = some (.ss, 0x0000800000000008) ∧
    SegmentViolated (gprSet s64 4 0x0000800000000008) .m64 .ss 0x0000800000000008 16 ∧
    (linearAddr (gprSet s64 4 0x0000800000000008) .m64 .ss 0x0000800000000008).toNat % 16 ≠ 0 := by decide

/-- Privilege level 3 with alignment checking on, RAX = 2003H; 4 bytes of its operand are mapped. -/
def sAc : State := { gprSet s64 0 0x2003 with cr0 := s64.cr0 ||| 0x40000, eflags := 0x40002, code := ⟨true, false, 3⟩ }
def sPart : State := mapped (gprSet s64 0 0x2000) 0x2000 [1, 2, 3, 4]
def denied : Denial := ⟨.data, 0x2000, 8, 4, 0x2007⟩
def sDenied : State := { sPart with denials := [denied] }

theorem witness_UnalignedUnderCheckRefused : FormReady (formClass mmRax) sAc .m64 ∧
    memTarget mmRax sAc .m64 = some (.ds, 0x2003) ∧
    ¬SegmentViolated sAc .m64 .ds 0x2003 (formClass mmRax).operandBytes ∧
    ¬Misaligned sAc .m64 .ds 0x2003 (formClass mmRax).align16 ∧ sAc.acEnabled = true ∧
    (linearAddr sAc .m64 .ds 0x2003).toNat % (formClass mmRax).operandBytes ≠ 0 := by decide
theorem witness_UnmappedOperandPageFaults : FormReady (formClass mmRax) sPart .m64 ∧
    memTarget mmRax sPart .m64 = some (.ds, 0x2000) ∧ AccessReached sPart .m64 .ds 0x2000 8 false ∧
    (∀ x ∈ sPart.denials, ¬(x.kind = .data ∧ x.lin = linearAddr sPart .m64 .ds 0x2000 ∧ x.size = 8)) ∧
    (∀ j < 4, sPart.mem.read? (byteAddr .m64 (linearAddr sPart .m64 .ds 0x2000) j).toNat ≠ none) ∧
    sPart.mem.read? (byteAddr .m64 (linearAddr sPart .m64 .ds 0x2000) 4).toNat = none ∧
    FormReady (formClass mmRax) sDenied .m64 ∧ memTarget mmRax sDenied .m64 = some (.ds, 0x2000) ∧
    AccessReached sDenied .m64 .ds 0x2000 8 false ∧ denied ∈ sDenied.denials ∧
    ∀ y ∈ sDenied.denials, (y.kind = .data ∧ y.lin = linearAddr sDenied .m64 .ds 0x2000 ∧ y.size = 8) ↔
      y = denied := by decide
theorem witness_FaultsChangeNothing : exec mmReg sTs = .fault (.nm sTs) ∧
    step (code64 sTs [0x0F, 0x63, 0xC1]) = .fault (.nm (code64 sTs [0x0F, 0x63, 0xC1])) :=
  ⟨fault_of (by decide), fault_of (by decide)⟩
theorem witness_RegisterFormsFaults : srcIsReg mmReg = true ∧ exec mmReg sTs = .fault (.nm sTs) :=
  ⟨by decide, fault_of (by decide)⟩

theorem witness_OperandsAreLittleEndian :
    memRead sPart .m64 .ds 0x2000 4 false = .ok (0x04030201 : BitVec (8 * 4)) := by decide
theorem witness_MemReadAnswersMappedBytes :
    0 < 8 ∧ Readable sMem .m64 .ds 0x2003 8 false (List.replicate 8 0x81) := by decide
theorem witness_EffectiveAddressIsTruncatedSum : addrSize .m64 [] = some .a64 ∧
    addrSize .m64 [.addrSize] = some .a32 ∧ addrSize .m32 [] = some .a32 := by decide
theorem witness_OperandSegments : (∀ seg : Seg, LegacyPrefix.seg seg ∉ [.opSize, LegacyPrefix.addrSize]) ∧
    baseOk 5 (.d8 0) = true ∧ baseOk 13 (.d8 0) = true ∧
    prefixesDistinct [.opSize, .seg .gs] = true ∧ LegacyPrefix.seg .gs ∈ [LegacyPrefix.opSize, .seg .gs] :=
  ⟨fun seg => by simp, by decide, by decide, by decide, by decide⟩
theorem witness_BootMeetsLaunchPremises : FormClass.hasFlag .vex256 State.reset.features = true := by decide

theorem witness_StepRunsDecoded : (code64 s64 [0x0F, 0x63, 0xC1]).runMode = .ok .m64 ∧
    [0x0F, 0x63, 0xC1].length ≤ 15 ∧ CodeAt (code64 s64 [0x0F, 0x63, 0xC1]) .m64 [0x0F, 0x63, 0xC1] ∧
    decode .m64 [0x0F, 0x63, 0xC1] = .form shortest [] := by decide
theorem witness_StepAdvancesPc : (code64 s64 [0x0F, 0x63, 0xC1]).runMode = .ok .m64 ∧
    ∃ t, step (code64 s64 [0x0F, 0x63, 0xC1]) = .next t := ⟨by decide, next_of (by decide)⟩
theorem witness_StepStopsOnUndecoded : (code64 s64 [0x90]).runMode = .ok .m64 ∧ [0x90].length ≤ 15 ∧
    CodeAt (code64 s64 [0x90]) .m64 [0x90] ∧ decode .m64 [0x90] = .refuse .notAForm ∧
    (code64 s64 [0x66, 0xC5]).runMode = .ok .m64 ∧ [0x66, 0xC5].length ≤ 15 ∧
    CodeAt (code64 s64 [0x66, 0xC5]) .m64 [0x66, 0xC5] ∧ decode .m64 [0x66, 0xC5] = .ud := by decide

/-- `pc` at the last canonical address below the hole, and at the top of the 32-bit space: two bytes of the
instruction are there, or one. -/
def sHole : State := { s64 with rip := 0x00007FFFFFFFFFFE }
def sTop : State := { s32 with rip := 0xFFFFFFFF }

theorem witness_FetchStopsAtFirstMissingByte :
    (code64 sHole [0x0F, 0x63]).runMode = .ok .m64 ∧ CodeAt (code64 sHole [0x0F, 0x63]) .m64 [0x0F, 0x63] ∧
    decode .m64 [0x0F, 0x63] = .more ∧ canonical .la48 (((code64 sHole [0x0F, 0x63]).pc .m64).toNat + 2) = false ∧
    (sTop.loadCode .m32 [0x0F]).runMode = .ok .m32 ∧ CodeAt (sTop.loadCode .m32 [0x0F]) .m32 [0x0F] ∧
    decode .m32 [0x0F] = .more ∧ 0xFFFFFFFF < ((sTop.loadCode .m32 [0x0F]).pc .m32).toNat + 1 ∧
    s64.runMode = .ok .m64 ∧ CodeAt s64 .m64 [] ∧ decode .m64 [] = .more ∧
    canonical s64.laBits ((s64.pc .m64).toNat + 0) = true ∧ s64.denials = [] ∧
    s64.mem.read? (byteAddr .m64 (s64.pc .m64) 0).toNat = none :=
  ⟨by decide, by decide, by decide, by decide, by decide, by decide, by decide, by decide, by decide, by decide,
    by decide, by decide, by decide, by decide⟩

/-- The fetch of the third byte is denied: one denial, a protection fault reported at another address. -/
def denialAt (s : State) (k : Nat) : Denial :=
  { kind := .fetch, lin := s.pc .m64 + BitVec.ofNat 64 k, size := 1, code := 0x11, addr := 0x1234 }
def sFetchDenied : State := { code64 s64 [0x0F, 0x63] with denials := [denialAt s64 2] }

theorem witness_FetchStopsAtFirstMissingByte_denied :
    sFetchDenied.runMode = .ok .m64 ∧ CodeAt sFetchDenied .m64 [0x0F, 0x63] ∧ decode .m64 [0x0F, 0x63] = .more ∧
    canonical sFetchDenied.laBits ((sFetchDenied.pc .m64).toNat + 2) = true ∧
    denialAt s64 2 ∈ sFetchDenied.denials ∧ (denialAt s64 2).kind = .fetch ∧
    (denialAt s64 2).lin = byteAddr .m64 (sFetchDenied.pc .m64) 2 ∧ (denialAt s64 2).size = 1 ∧
    (∀ y ∈ sFetchDenied.denials, y = denialAt s64 2) ∧
    step sFetchDenied = .fault (.pf 0x11 0x1234 sFetchDenied) :=
  ⟨by decide, by decide, by decide, by decide, by decide, by decide, by decide, by decide,
    fun _ h => List.mem_singleton.1 h, rfl⟩

theorem witness_PlacedWordIsRun :
    decodeTableWord 32 0xC5F56BC2 = some (.vpackssdwYmm vex2 0 1 (.reg 2)) := by decide

/-! ## Runs and launch premises (rules R152 and R153) -/

/-- The empty program succeeds at once: `pc` is compared, not the whole of the field `rip`. -/
theorem test_run_empty_m32 : runProgram 0 0 { s32 with rip := 0x100001000 } =
    .success { s32 with rip := 0x100001000 } := by decide

/-- A program that ends exactly at FFFFFFFFH in `M32` has END = 0 (decision D6, notes/assumptions/30.md). -/
def sLast : State := (({ s32 with rip := 0xFFFFFFFD } : State).loadCode .m32 [0x0F, 0x63, 0xC1])

theorem test_run_ends_at_top : programEnd .m32 (sLast.pc .m32) 3 = 0 ∧
    (match runProgram 3 1 sLast with
      | .success t => decide (t.pc .m32 = 0)
      | _ => false) = true := by decide

/-- A text of two bytes cuts its instruction short: refused, although the third byte is mapped (`L_text`). -/
theorem test_run_text_cut_short : runProgram 2 1 (code64 s64 [0x0F, 0x63, 0xC1]) =
    .textCutShort (code64 s64 [0x0F, 0x63, 0xC1]) := by decide

/-- The launch premises can be met, and a device under the operand breaks them. -/
theorem test_launch : Launch (code64 sMem [0x0F, 0x63, 0x00]) .m64 [0x0F, 0x63, 0x00]
    [.packsswbMm plain 0 (.mem atRax)] :=
  ⟨by decide, by decide, by decide, by decide, by decide, by decide, by decide,
    fun _ _ _ h => (List.not_mem_nil h).elim, by decide, fun _ _ _ h => (List.not_mem_nil h).elim, by decide⟩
theorem test_launch_device : ¬LMem { sMem with platform := ⟨[⟨0x200A, 1⟩], [], true⟩ } .m64
    [.packsswbMm plain 0 (.mem atRax)] :=
  fun h => absurd (h 0x200A (by decide) ⟨0x200A, 1⟩ (List.mem_singleton.2 rfl)) (by decide)

end Sys2Proof.Tests
end

/-!
PROOFS (spec/00_scope.md): every step keeps the invariant. What admission says of the state, what each register
write and the end of an instruction do to the invariant, and from these the instructions and the step.
-/

namespace Sys2Proof.Machine

/-! ## What admission says of the state -/

/-- The checks of rules R121 to R123 raise nothing exactly when the form's flag and enable are set, `TS` is clear
and, for an MMX form, no x87 exception is pending. -/
theorem formException_eq_none_iff {c : FormClass} {s : State} :
    formException c s = none ↔
      c.hasFlag s.features = true ∧ c.enabled s = true ∧ s.ts = false ∧ (c = .mmx → s.x87Pending = false) := by
  unfold formException
  split_ifs with denied taskSwitched pending
  · simp only [Bool.or_eq_true, Bool.not_eq_true'] at denied
    rcases denied with noFlag | notEnabled
    · simp [noFlag]
    · simp [notEnabled]
  · simp [taskSwitched]
  · simp_all
  · simp_all

/-- A form is admitted only where the launch premises that bear on it hold (rule R152). -/
theorem formReady_of_admitForm {c : FormClass} {s : State} {m : Mode} (h : admitForm c s = .ok m) :
    FormReady c s m := by
  obtain ⟨mode, noException⟩ := admitForm_ok h
  exact ⟨mode, formException_eq_none_iff.1 noException⟩

/-! ## The instruction pointer (rule R25) -/

theorem truncAddr_m32_lt (a : Quad) : (truncAddr .m32 a).toNat < 2 ^ 32 := by
  simp only [truncAddr, BitVec.toNat_setWidth]
  omega

/-! ## Upper halves (rule R21) -/

theorem State.upperZero_iff {s : State} :
    s.upperZero = true ↔ ∀ j : BitVec 4, (s.readYmm j).extractLsb' 128 128 = 0 := by
  simp only [State.upperZero, State.readYmm, List.all_eq_true, decide_eq_true_eq, Vector.mem_toList_iff,
    Vector.mem_iff_getElem]
  constructor
  · exact fun h j => h _ ⟨j.toNat, j.isLt, rfl⟩
  · rintro h _ ⟨k, hk, rfl⟩
    simpa [Nat.mod_eq_of_lt hk] using h (BitVec.ofNat 4 k)

/-- A write whose value has a zero upper half keeps all upper halves zero. -/
theorem State.upperZero_writeYmm {s : State} (i : BitVec 4) {v : YmmVal} (h : s.upperZero = true)
    (hv : v.extractLsb' 128 128 = 0) : (s.writeYmm i v).upperZero = true := by
  rw [State.upperZero_iff] at h ⊢
  intro j
  by_cases hj : j = i
  · rw [hj, State.readYmm_writeYmm_self, hv]
  · rw [State.readYmm_writeYmm_other s v hj, h j]

/-! ## The writes and the end of an instruction keep the invariant -/

theorem State.inv_writeMm {s : State} (i : BitVec 3) (v : Quad) (h : s.Inv) : (s.writeMm i v).Inv := h

/-- Without AVX only a value with a zero upper half may be written. -/
theorem State.inv_writeYmm {s : State} (i : BitVec 4) {v : YmmVal} (h : s.Inv)
    (hv : s.features.hasAvx = false → s.upperZero = true → v.extractLsb' 128 128 = 0) :
    (s.writeYmm i v).Inv := by
  obtain ⟨mem, avx2, upper, rip⟩ := h
  exact ⟨mem, avx2, fun noAvx => State.upperZero_writeYmm i (upper noAvx) (hv noAvx (upper noAvx)), rip⟩

/-- A legacy SSE write keeps the register's upper half (rule R23). -/
theorem State.inv_writeXmm {s : State} (i : BitVec 4) (v : XmmVal) (h : s.Inv) : (s.writeXmm i v).Inv :=
  State.inv_writeYmm i h fun _ upper => (high_append _ v).trans (State.upperZero_iff.1 upper i)

/-- With AVX the upper halves exist, and any value may be written. -/
theorem State.inv_writeYmm_of_avx {s : State} (i : BitVec 4) (v : YmmVal) (h : s.Inv)
    (avx : s.features.hasAvx = true) : (s.writeYmm i v).Inv :=
  State.inv_writeYmm i h fun noAvx => by simp [avx] at noAvx

/-- The end of an instruction truncates `pc` to the width of the mode the state runs in. -/
theorem State.inv_retire {s : State} {m : Mode} (n : Nat) (h : s.Inv) (mode : s.runMode = .ok m) :
    (s.retire m n).Inv := by
  obtain ⟨mem, avx2, upper, -⟩ := h
  refine ⟨mem, avx2, upper, fun mode32 => ?_⟩
  obtain rfl : m = .m32 := by simpa [mode] using mode32
  exact truncAddr_m32_lt _

/-! ## Instructions and steps keep the invariant -/

theorem exec_keeps_inv {i : Instr} {s t : State} (h : s.Inv) (hnext : exec i s = .next t) : t.Inv := by
  cases exec_next hnext with
  | mm m d v hm ht =>
    obtain ⟨mode, -⟩ := admitForm_ok hm
    exact ht ▸ State.inv_retire _ (State.inv_writeMm d v h) mode
  | sse m d v hm ht =>
    obtain ⟨mode, -⟩ := admitForm_ok hm
    exact ht ▸ State.inv_retire _ (State.inv_writeXmm d v h) mode
  | vex128 m d v hm ht =>
    obtain ⟨mode, avx, -⟩ := formReady_of_admitForm hm
    exact ht ▸ State.inv_retire _ (State.inv_writeYmm_of_avx d _ h avx) mode
  | vex256 m d v hm ht =>
    obtain ⟨mode, avx2, -⟩ := formReady_of_admitForm hm
    have ⟨_, avx_of_avx2, _⟩ := h
    exact ht ▸ State.inv_retire _ (State.inv_writeYmm_of_avx d v h (avx_of_avx2 avx2)) mode

/-- Settles O32: a step that answers a next state executed one instruction, which keeps the invariant. -/
theorem stepKeepsInv : Obligations.StepKeepsInv := by
  intro s t inv ht
  obtain ⟨m, i, -, -, hexec⟩ := step_next ht
  exact exec_keeps_inv inv hexec

end Sys2Proof.Machine

/-!
PROOFS (spec/00_scope.md, conflict C7): the source's 64-bit blocks read in place. First the slice assignment and
rows of them, for every width, then the elements of the packs, then the two blocks.
-/

namespace Sys2Proof.Machine

/-! ## One slice assignment -/

/-- The assignment replaces the bits of its slice and keeps the others. -/
theorem getLsbD_assignSlice {N w : Nat} (x : BitVec N) (lo : Nat) (v : BitVec w) {k : Nat} (hk : k < N) :
    (assignSlice x lo v).getLsbD k =
      if lo ≤ k ∧ k < lo + w then v.getLsbD (k - lo) else x.getLsbD k := by
  by_cases below : k < lo
  · simp [assignSlice, hk, below, show ¬lo ≤ k by omega]
  · by_cases above : k < lo + w
    · simp [assignSlice, hk, below, above, show lo ≤ k by omega, show k - lo < w by omega]
    · simp [assignSlice, hk, below, above, show ¬k - lo < w by omega,
        BitVec.getLsbD_of_ge v (k - lo) (by omega)]

/-- Two values agree on the bits below `lo` and on the bits from `hi` on. -/
def AgreeOutside {N : Nat} (lo hi : Nat) (x y : BitVec N) : Prop :=
  ∀ k, k < lo ∨ hi ≤ k → x.getLsbD k = y.getLsbD k

/-- Values that agree outside a range have the same slices outside it. -/
theorem AgreeOutside.extractLsb'_eq {N lo hi pos len : Nat} {x y : BitVec N} (h : AgreeOutside lo hi x y)
    (outside : pos + len ≤ lo ∨ hi ≤ pos) : x.extractLsb' pos len = y.extractLsb' pos len := by
  apply BitVec.eq_of_getLsbD_eq
  intro k hk
  simp only [BitVec.getLsbD_extractLsb', h (pos + k) (by omega)]

theorem assignSlice_agreeOutside {N w : Nat} (x : BitVec N) (lo : Nat) (v : BitVec w) :
    AgreeOutside lo (lo + w) (assignSlice x lo v) x := by
  intro k outside
  by_cases hk : k < N
  · rw [getLsbD_assignSlice x lo v hk, if_neg (by omega)]
  · simp [BitVec.getLsbD_of_ge _ k (Nat.le_of_not_lt hk)]

theorem extractLsb'_assignSlice_self {N w : Nat} (x : BitVec N) {lo : Nat} (v : BitVec w) (fits : lo + w ≤ N) :
    (assignSlice x lo v).extractLsb' lo w = v := by
  apply BitVec.eq_of_getLsbD_eq
  intro k hk
  rw [BitVec.getLsbD_extractLsb', getLsbD_assignSlice x lo v (by omega), if_pos (by omega)]
  simp [hk]

/-! ## A row of slice assignments -/

/-- `n` slices of `w` bits assigned one after the other, upwards from bit `lo`; the value assigned to slice `i`
may be read from the register as the assignments before it left it. -/
def assignSlices {N w : Nat} (lo : Nat) (value : BitVec N → Nat → BitVec w) (dest : BitVec N) (n : Nat) :
    BitVec N :=
  (List.range n).foldl (fun x i => assignSlice x (lo + w * i) (value x i)) dest

theorem assignSlices_succ {N w : Nat} (lo : Nat) (value : BitVec N → Nat → BitVec w) (dest : BitVec N) (n : Nat) :
    assignSlices lo value dest (n + 1) =
      assignSlice (assignSlices lo value dest n) (lo + w * n) (value (assignSlices lo value dest n) n) := by
  simp [assignSlices, List.range_succ]

theorem assignSlices_agreeOutside {N w : Nat} (lo : Nat) (value : BitVec N → Nat → BitVec w) (dest : BitVec N)
    (n : Nat) : AgreeOutside lo (lo + w * n) (assignSlices lo value dest n) dest := by
  induction n with
  | zero => intro k _; rfl
  | succ n ih =>
    intro k outside
    rw [Nat.mul_succ] at outside
    rw [assignSlices_succ, assignSlice_agreeOutside _ _ _ k (by omega), ih k (by omega)]

/-- Slice `i` holds its value at the end, if what it is read from is above the slices assigned before it. -/
theorem extractLsb'_assignSlices {N w n : Nat} {lo : Nat} {value : BitVec N → Nat → BitVec w} {dest : BitVec N}
    (fits : lo + w * n ≤ N)
    (ahead : ∀ i x, AgreeOutside lo (lo + w * i) x dest → value x i = value dest i) :
    ∀ i < n, (assignSlices lo value dest n).extractLsb' (lo + w * i) w = value dest i := by
  induction n with
  | zero => intro i hi; omega
  | succ n ih =>
    intro i hi
    rw [Nat.mul_succ] at fits
    rw [assignSlices_succ]
    obtain rfl | earlier : i = n ∨ i < n := by omega
    · rw [extractLsb'_assignSlice_self _ _ (by omega), ahead i _ (assignSlices_agreeOutside lo value dest i)]
    · have slice_le : w * i + w ≤ w * n := Nat.mul_le_mul_left w earlier
      rw [(assignSlice_agreeOutside _ _ _).extractLsb'_eq (.inl (by omega)), ih (by omega) i earlier]

/-! ## The two loops of a block -/

/-- Values that are made of the same elements are equal. -/
theorem eq_of_extractLsb'_eq {N w n : Nat} (hN : N = w * n) {x y : BitVec N}
    (h : ∀ i < n, x.extractLsb' (w * i) w = y.extractLsb' (w * i) w) : x = y := by
  apply BitVec.eq_of_getLsbD_eq
  intro k hk
  have hw : 0 < w := Nat.pos_of_ne_zero (by rintro rfl; omega)
  have element := congrArg (BitVec.getLsbD · (k % w)) (h (k / w) (Nat.div_lt_of_lt_mul (hN ▸ hk)))
  simpa [Nat.mod_lt k hw, Nat.div_add_mod] using element

/-- A block of the source (conflict C7): its first loop narrows the destination's `n` elements of `W` bits in
place, its second the source's above them. The first loop reads element `i` at bit `W * i`, which is not below
`w * i`, so no assignment before it has touched what it reads. -/
theorem inPlaceBlock_eq {N w W n : Nat} (narrow : BitVec W → BitVec w) (hw : w ≤ W) (hN : N = w * (n + n))
    {a b packed : BitVec N}
    (low : ∀ i < n, packed.extractLsb' (w * i) w = narrow (a.extractLsb' (W * i) W))
    (high : ∀ i < n, packed.extractLsb' (w * n + w * i) w = narrow (b.extractLsb' (W * i) W)) :
    assignSlices (w * n) (fun _ i => narrow (b.extractLsb' (W * i) W))
      (assignSlices 0 (fun x i => narrow (x.extractLsb' (W * i) W)) a n) n = packed := by
  have fits : w * n + w * n ≤ N := by rw [hN, Nat.mul_add]
  refine eq_of_extractLsb'_eq hN fun i hi => ?_
  obtain lower | ⟨j, rfl⟩ : i < n ∨ ∃ j, i = n + j := (Nat.lt_or_ge i n).imp_right Nat.exists_eq_add_of_le
  · have slice_le : w * i + w ≤ w * n := Nat.mul_le_mul_left w lower
    rw [(assignSlices_agreeOutside _ _ _ _).extractLsb'_eq (.inl slice_le), low i lower]
    have firstLoop := extractLsb'_assignSlices (lo := 0) (n := n) (dest := a)
      (value := fun x i => narrow (x.extractLsb' (W * i) W)) (by omega) fun i x unread => by
        have ahead : 0 + w * i ≤ W * i := by rw [Nat.zero_add]; exact Nat.mul_le_mul_right i hw
        simp only [unread.extractLsb'_eq (.inr ahead)]
    simpa using firstLoop i lower
  · rw [Nat.mul_add, high j (by omega)]
    exact extractLsb'_assignSlices fits (fun _ _ _ => rfl) j (by omega)

/-! ## The elements of the 64-bit packs (rule R92) -/

theorem extractLsb'_narrowWB (a : BitVec 64) {i : Nat} (hi : i < 4) :
    (narrowWB a).extractLsb' (8 * i) 8 = satSW2SB (a.extractLsb' (16 * i) 16) := by
  interval_cases i
  · rw [narrowWB, BitVec.extractLsb'_append_eq_of_add_le (by decide), BitVec.extractLsb'_eq_self]
  · rw [narrowWB, BitVec.extractLsb'_append_eq_of_le (by decide), BitVec.extractLsb'_append_eq_of_add_le (by decide),
      BitVec.extractLsb'_eq_self]
  · rw [narrowWB, BitVec.extractLsb'_append_eq_of_le (by decide), BitVec.extractLsb'_append_eq_of_le (by decide),
      BitVec.extractLsb'_append_eq_of_add_le (by decide), BitVec.extractLsb'_eq_self]
  · rw [narrowWB, BitVec.extractLsb'_append_eq_of_le (by decide), BitVec.extractLsb'_append_eq_of_le (by decide),
      BitVec.extractLsb'_append_eq_of_le (by decide), BitVec.extractLsb'_eq_self]

theorem extractLsb'_narrowDW (a : BitVec 64) {i : Nat} (hi : i < 2) :
    (narrowDW a).extractLsb' (16 * i) 16 = satSD2SW (a.extractLsb' (32 * i) 32) := by
  interval_cases i
  · rw [narrowDW, BitVec.extractLsb'_append_eq_of_add_le (by decide), BitVec.extractLsb'_eq_self]
  · rw [narrowDW, BitVec.extractLsb'_append_eq_of_le (by decide), BitVec.extractLsb'_eq_self]

theorem extractLsb'_pack64WB_low (a b : BitVec 64) {i : Nat} (hi : i < 4) :
    (pack64WB a b).extractLsb' (8 * i) 8 = satSW2SB (a.extractLsb' (16 * i) 16) := by
  rw [pack64WB, BitVec.extractLsb'_append_eq_of_add_le (by omega), extractLsb'_narrowWB a hi]

theorem extractLsb'_pack64WB_high (a b : BitVec 64) {i : Nat} (hi : i < 4) :
    (pack64WB a b).extractLsb' (32 + 8 * i) 8 = satSW2SB (b.extractLsb' (16 * i) 16) := by
  rw [pack64WB, BitVec.extractLsb'_append_eq_of_le (by omega), Nat.add_sub_cancel_left, extractLsb'_narrowWB b hi]

theorem extractLsb'_pack64DW_low (a b : BitVec 64) {i : Nat} (hi : i < 2) :
    (pack64DW a b).extractLsb' (16 * i) 16 = satSD2SW (a.extractLsb' (32 * i) 32) := by
  rw [pack64DW, BitVec.extractLsb'_append_eq_of_add_le (by omega), extractLsb'_narrowDW a hi]

theorem extractLsb'_pack64DW_high (a b : BitVec 64) {i : Nat} (hi : i < 2) :
    (pack64DW a b).extractLsb' (32 + 16 * i) 16 = satSD2SW (b.extractLsb' (32 * i) 32) := by
  rw [pack64DW, BitVec.extractLsb'_append_eq_of_le (by omega), Nat.add_sub_cancel_left, extractLsb'_narrowDW b hi]

/-! ## The source's blocks -/

theorem inPlace64WB_eq_assignSlices (a b : BitVec 64) :
    inPlace64WB a b =
      assignSlices (8 * 4) (fun _ i => satSW2SB (b.extractLsb' (16 * i) 16))
        (assignSlices 0 (fun x i => satSW2SB (x.extractLsb' (16 * i) 16)) a 4) 4 := by
  simp only [inPlace64WB, assignSlices, Nat.zero_add]

theorem inPlace64DW_eq_assignSlices (a b : BitVec 64) :
    inPlace64DW a b =
      assignSlices (16 * 2) (fun _ i => satSD2SW (b.extractLsb' (32 * i) 32))
        (assignSlices 0 (fun x i => satSD2SW (x.extractLsb' (32 * i) 32)) a 2) 2 := by
  simp only [inPlace64DW, assignSlices, Nat.zero_add]

/-- Settles O17: both blocks are in-place blocks whose result has the elements of the pack. -/
theorem inPlaceReadingAgrees : Obligations.InPlaceReadingAgrees := by
  intro a b
  constructor
  · rw [inPlace64WB_eq_assignSlices]
    exact inPlaceBlock_eq satSW2SB (by decide) rfl
      (fun i hi => extractLsb'_pack64WB_low a b hi) (fun i hi => extractLsb'_pack64WB_high a b hi)
  · rw [inPlace64DW_eq_assignSlices]
    exact inPlaceBlock_eq satSD2SW (by decide) rfl
      (fun i hi => extractLsb'_pack64DW_low a b hi) (fun i hi => extractLsb'_pack64DW_high a b hi)

end Sys2Proof.Machine

/-!
PROOFS (spec/10_state.md): what a completed instruction wrote and what it left, the registers an instruction can
name, and the control bits. First the x87 view of an MMX write, then one inversion for the eight instructions that
names the destination, then the frame and the rules R23 and R27.
-/

namespace Sys2Proof.Machine

/-! ## The x87 view of an MMX write (rule R27) -/

theorem State.readX87_writeMm_self (s : State) (i : BitVec 3) (v : Quad) :
    (s.writeMm i v).readX87 i = 0xFFFF#16 ++ v := by
  simp [State.readX87, State.readMm_writeMm_self]

theorem State.readX87_writeMm_other (s : State) {i j : BitVec 3} (v : Quad) (h : j ≠ i) :
    (s.writeMm i v).readX87 j = s.readX87 j := by
  have hne : i.toNat ≠ j.toNat := fun e => h (BitVec.eq_of_toNat_eq e.symm)
  simp [State.readX87, State.readMm_writeMm_other s v h, Vector.getElem_set_ne, hne]

/-- The mask of an MMX form clears TOP (bits 13:11 of the status word) and nothing else. -/
theorem getLsbD_topMask : ∀ k < 16, (0xC7FF#16).getLsbD k = decide (k < 11 ∨ 13 < k) := by decide

theorem State.top_writeMm (s : State) (i : BitVec 3) (v : Quad) : (s.writeMm i v).fsw.extractLsb' 11 3 = 0 := by
  apply BitVec.eq_of_getLsbD_eq
  intro k hk
  simp [getLsbD_topMask (11 + k) (by omega), show 11 + k ≤ 13 by omega]

theorem State.fsw_writeMm_outside_top (s : State) (i : BitVec 3) (v : Quad) {k : Nat} (hk : k < 16)
    (outside : k < 11 ∨ 13 < k) : (s.writeMm i v).fsw.getLsbD k = s.fsw.getLsbD k := by
  simp [getLsbD_topMask k hk, outside]

/-! ## What a completed instruction wrote -/

/-- What a completed instruction did, with the destination it named: an MMX form wrote its MMX register, every other
form wrote a value to its vector register, whose upper half its class decides (rule R23); then `pc` moved. -/
inductive WroteDestination (i : Instr) (s t : State) : Prop where
  | mmx (m : Mode) (d : BitVec 3) (v : Quad) (mode : s.runMode = .ok m) (mmReg : mmDest i = some d)
      (noVec : vecDest i = none) (ht : t = (s.writeMm d v).retire m i.ilen)
  | vec (m : Mode) (d : BitVec 4) (v : YmmVal) (mode : s.runMode = .ok m) (noMm : mmDest i = none)
      (vecReg : vecDest i = some d) (ht : t = (s.writeYmm d v).retire m i.ilen)
      (kept : formClass i = .sse2 → v.extractLsb' 128 128 = (s.readYmm d).extractLsb' 128 128)
      (zeroed : formClass i = .vex128 → v.extractLsb' 128 128 = 0)

theorem WroteDestination.of_runMm {i : Instr} {pack : BitVec 64 → BitVec 64 → BitVec 64} {e : LegacyEnc}
    {d : BitVec 3} {src : Rm 3} {s t : State} (h : finish s (runMm pack e d src s) = .next t)
    (len : i.ilen = legacyLength e src) (mmReg : mmDest i = some d) (noVec : vecDest i = none) :
    WroteDestination i s t := by
  obtain ⟨m, b, admitted, -, ht⟩ := runMm_ok (finish_next h)
  exact .mmx m d _ (admitForm_ok admitted).1 mmReg noVec (len ▸ ht)

theorem WroteDestination.of_runSse {i : Instr} {pack : BitVec 128 → BitVec 128 → BitVec 128} {e : LegacyEnc}
    {d : BitVec 4} {src : Rm 4} {s t : State} (h : finish s (runSse pack e d src s) = .next t)
    (len : i.ilen = legacyLength e src) (cls : formClass i = .sse2) (noMm : mmDest i = none)
    (vecReg : vecDest i = some d) : WroteDestination i s t := by
  obtain ⟨m, b, admitted, -, ht⟩ := runSse_ok (finish_next h)
  exact .vec m d _ (admitForm_ok admitted).1 noMm vecReg (len ▸ ht) (fun _ => high_append _ _) (by simp [cls])

theorem WroteDestination.of_runVex128 {i : Instr} {pack : BitVec 128 → BitVec 128 → BitVec 128} {e : VexEnc}
    {d v : BitVec 4} {src : Rm 4} {s t : State} (h : finish s (runVex128 pack e d v src s) = .next t)
    (len : i.ilen = vexLength e src) (cls : formClass i = .vex128) (noMm : mmDest i = none)
    (vecReg : vecDest i = some d) : WroteDestination i s t := by
  obtain ⟨m, b, admitted, -, ht⟩ := runVex128_ok (finish_next h)
  refine .vec m d _ (admitForm_ok admitted).1 noMm vecReg (len ▸ ht) (by simp [cls]) fun _ => ?_
  simpa only [State.writeXmmZeroUpper, State.readYmm_writeYmm_self] using
    State.upper_writeXmmZeroUpper_self s d (pack (s.readXmm v) b)

theorem WroteDestination.of_runVex256 {i : Instr} {pack : BitVec 256 → BitVec 256 → BitVec 256} {e : VexEnc}
    {d v : BitVec 4} {src : Rm 4} {s t : State} (h : finish s (runVex256 pack e d v src s) = .next t)
    (len : i.ilen = vexLength e src) (cls : formClass i = .vex256) (noMm : mmDest i = none)
    (vecReg : vecDest i = some d) : WroteDestination i s t := by
  obtain ⟨m, b, admitted, -, ht⟩ := runVex256_ok (finish_next h)
  exact .vec m d _ (admitForm_ok admitted).1 noMm vecReg (len ▸ ht) (by simp [cls]) (by simp [cls])

theorem wroteDestination_of_exec {i : Instr} {s t : State} (h : exec i s = .next t) : WroteDestination i s t := by
  cases i with
  | packsswbMm e d src => exact .of_runMm h rfl rfl rfl
  | packssdwMm e d src => exact .of_runMm h rfl rfl rfl
  | packsswbXmm e d src => exact .of_runSse h rfl rfl rfl rfl
  | packssdwXmm e d src => exact .of_runSse h rfl rfl rfl rfl
  | vpacksswbXmm e d v src => exact .of_runVex128 h rfl rfl rfl rfl
  | vpackssdwXmm e d v src => exact .of_runVex128 h rfl rfl rfl rfl
  | vpacksswbYmm e d v src => exact .of_runVex256 h rfl rfl rfl rfl
  | vpackssdwYmm e d v src => exact .of_runVex256 h rfl rfl rfl rfl

/-! ## The frame and the rules of the destination -/

/-- Settles O26: the register read is either not the one written, or of the other file. -/
theorem formsWriteOnlyTheirDestination : Obligations.FormsWriteOnlyTheirDestination := by
  intro i s t h
  cases wroteDestination_of_exec h with
  | mmx m d v _ mmReg noVec ht =>
    subst ht
    refine ⟨fun j hj => ?_, fun j _ => rfl, by simp [mmReg], fun _ => rfl, rfl, rfl, rfl, rfl, rfl, rfl, rfl, rfl,
      rfl, fun _ => rfl⟩
    have other : j ≠ d := by rintro rfl; exact hj mmReg
    exact ⟨State.readMm_writeMm_other s v other, State.readX87_writeMm_other s v other⟩
  | vec m d v _ noMm vecReg ht _ _ =>
    subst ht
    refine ⟨fun j _ => ⟨rfl, rfl⟩, fun j hj => ?_, fun _ => ⟨rfl, rfl, rfl⟩, fun _ => rfl, rfl, rfl, rfl, rfl, rfl,
      rfl, rfl, rfl, rfl, fun _ => rfl⟩
    have other : j ≠ d := by rintro rfl; exact hj vecReg
    exact State.readYmm_writeYmm_other s v other

/-- Settles O27: the vector register read back is the value written, whose upper half the class decided. -/
theorem upperHalfByClass : Obligations.UpperHalfByClass := by
  intro i s t d h dest
  cases wroteDestination_of_exec h with
  | mmx m d' v _ _ noVec ht => simp [noVec] at dest
  | vec m d' v _ _ vecReg ht kept zeroed =>
    obtain rfl : d' = d := by simpa [vecReg] using dest
    have written : t.readYmm d' = v := by rw [ht, State.readYmm_retire, State.readYmm_writeYmm_self]
    exact written ▸ ⟨kept, zeroed⟩

/-- Settles O28: a form with an MMX destination is an MMX form, and its write marks the x87 state. -/
theorem mmxFormsMarkX87State : Obligations.MmxFormsMarkX87State := by
  intro i s t d h dest
  cases wroteDestination_of_exec h with
  | vec m d' v _ noMm _ ht _ _ => simp [noMm] at dest
  | mmx m d' v _ mmReg _ ht =>
    obtain rfl : d' = d := by simpa [mmReg] using dest
    subst ht
    refine ⟨rfl, State.top_writeMm s d' v, fun k hk outside => State.fsw_writeMm_outside_top s d' v hk outside, ?_⟩
    rw [State.readMm_retire, State.readMm_writeMm_self]
    exact State.readX87_writeMm_self s d' v

/-! ## The vector registers an instruction can name (rules R22 and R72) -/

/-- The vector register that an operand is, if it is one. -/
def rmRegisters : Rm 4 → List (BitVec 4)
  | .reg r => [r]
  | .mem _ => []

/-- A register number without its extension bit is below 8. -/
theorem toNat_lt_eight_of_ext : ∀ r : BitVec 4, r.getLsbD 3 = false → r.toNat < 8 := by decide

/-- Without a REX byte, which `M32` does not have, a non-VEX form names low registers only. -/
theorem lowRegisters_of_legacyOk {w : Nat} {sse : Bool} {e : LegacyEnc} {d : BitVec w} {src : Rm w}
    (h : legacyOk .m32 sse e d src = true) : lowRegisters d src = true := by
  simp only [legacyOk, Bool.and_eq_true] at h
  obtain ⟨⟨-, rex⟩, -⟩ := h
  cases hr : e.rex <;> simp_all [rexOk]

/-- In `M32` a VEX form names low registers only. -/
theorem lowRegisters_of_vexOk {e : VexEnc} {d v : BitVec 4} {src : Rm 4} (h : vexOk .m32 e d v src = true) :
    lowRegisters d src = true ∧ v.getLsbD 3 = false := by
  simp only [vexOk, Bool.and_eq_true] at h
  obtain ⟨⟨-, prefixOk⟩, -⟩ := h
  cases hv : e.vex3 <;> simp_all [vexPrefixOk, lowRegisters]

/-- Low registers: the destination's number and the one a register operand holds are below 8. -/
theorem toNat_lt_eight_of_lowRegisters {d : BitVec 4} {src : Rm 4} (h : lowRegisters d src = true) :
    d.toNat < 8 ∧ ∀ r ∈ rmRegisters src, r.toNat < 8 := by
  simp only [lowRegisters, Bool.and_eq_true, Bool.not_eq_true'] at h
  obtain ⟨⟨dest, -⟩, operand⟩ := h
  refine ⟨toNat_lt_eight_of_ext d dest, ?_⟩
  cases src with
  | mem mo => simp [rmRegisters]
  | reg r => simpa [rmRegisters] using toNat_lt_eight_of_ext r operand

/-- Every vector register that the instruction writes or reads is numbered below 8. -/
abbrev VecRegistersLow (i : Instr) : Prop :=
  (∀ d, vecDest i = some d → d.toNat < 8) ∧ ∀ r ∈ vecSources i, r.toNat < 8

/-- A legacy SSE form reads its destination and its operand. -/
theorem vecRegistersLow_of_legacyOk {i : Instr} {e : LegacyEnc} {d : BitVec 4} {src : Rm 4}
    (h : legacyOk .m32 true e d src = true) (dest : vecDest i = some d)
    (sources : vecSources i = d :: rmRegisters src) : VecRegistersLow i := by
  obtain ⟨low, operand⟩ := toNat_lt_eight_of_lowRegisters (lowRegisters_of_legacyOk h)
  simpa [VecRegistersLow, dest, sources, low] using operand

/-- A VEX form reads its `vvvv` register and its operand. -/
theorem vecRegistersLow_of_vexOk {i : Instr} {e : VexEnc} {d v : BitVec 4} {src : Rm 4}
    (h : vexOk .m32 e d v src = true) (dest : vecDest i = some d) (sources : vecSources i = v :: rmRegisters src) :
    VecRegistersLow i := by
  obtain ⟨lowRegs, lowV⟩ := lowRegisters_of_vexOk h
  obtain ⟨low, operand⟩ := toNat_lt_eight_of_lowRegisters lowRegs
  simpa [VecRegistersLow, dest, sources, low, toNat_lt_eight_of_ext v lowV] using operand

theorem vecRegistersLow_of_wellFormed {i : Instr} (h : wellFormed .m32 i = true) : VecRegistersLow i := by
  cases i with
  | packsswbMm e d src => simp [VecRegistersLow, vecDest, vecSources]
  | packssdwMm e d src => simp [VecRegistersLow, vecDest, vecSources]
  | packsswbXmm e d src => exact vecRegistersLow_of_legacyOk h rfl (by cases src <;> rfl)
  | packssdwXmm e d src => exact vecRegistersLow_of_legacyOk h rfl (by cases src <;> rfl)
  | vpacksswbXmm e d v src => exact vecRegistersLow_of_vexOk h rfl (by cases src <;> rfl)
  | vpackssdwXmm e d v src => exact vecRegistersLow_of_vexOk h rfl (by cases src <;> rfl)
  | vpacksswbYmm e d v src => exact vecRegistersLow_of_vexOk h rfl (by cases src <;> rfl)
  | vpackssdwYmm e d v src => exact vecRegistersLow_of_vexOk h rfl (by cases src <;> rfl)

/-- Settles O9: a 4-bit number is below 16, and in `M32` the extension bits are zero. -/
theorem registerNumbersByMode : Obligations.RegisterNumbersByMode := by
  intro m i wf
  cases m with
  | m64 => exact ⟨fun d _ => d.isLt, fun r _ => r.isLt⟩
  | m32 => exact vecRegistersLow_of_wellFormed wf

/-! ## The control bits (rules R28 and R29) and the reset values (rule R32) -/

theorem State.enAvx_iff (s : State) :
    s.enAvx = true ↔ s.cr4.getLsbD 18 = true ∧ s.xcr0.getLsbD 1 = true ∧ s.xcr0.getLsbD 2 = true := by
  have bothSet : ∀ x : BitVec 2, x = 3#2 ↔ x.getLsbD 0 = true ∧ x.getLsbD 1 = true := by decide
  simp [State.enAvx, State.osxsave, bothSet]

theorem State.cpuMode_eq_long64_iff (s : State) : s.cpuMode = .long64 ↔
    s.cr0PE = true ∧ s.vm = false ∧ s.lma = true ∧ s.code.l = true := by
  unfold State.cpuMode
  split_ifs <;> simp_all

theorem State.cpuMode_eq_prot32_iff (s : State) : s.cpuMode = .prot32 ↔
    s.cr0PE = true ∧ s.vm = false ∧ s.code.l = false ∧ s.code.d = true := by
  unfold State.cpuMode
  split_ifs <;> simp_all

/-- Settles O51: each enable is the conjunction of its bits, each mode one path through the mode's checks. -/
theorem enablesFollowControlBits : Obligations.EnablesFollowControlBits := by
  intro s
  refine ⟨?_, ?_, s.enAvx_iff, Iff.rfl, Iff.rfl, ?_, s.cpuMode_eq_long64_iff, s.cpuMode_eq_prot32_iff, rfl, rfl, rfl,
    rfl, rfl⟩
  · simp [State.enMmx, State.cr0EM]
  · simp [State.enSse, State.cr0EM, State.osfxsr]
  · simp [State.acEnabled, State.cr0AM, State.ac, and_assoc]

theorem State.reset_readMm (i : BitVec 3) : State.reset.readMm i = 0 := by
  simp [State.readMm, State.reset]

theorem State.reset_readX87 (i : BitVec 3) : State.reset.readX87 i = 0 := by
  have high : State.reset.x87hi[i.toNat]'i.isLt = 0 := by simp [State.reset]
  simp only [State.readX87, State.reset_readMm, high]
  rfl

theorem State.reset_readYmm (i : BitVec 4) : State.reset.readYmm i = 0 := by
  simp [State.readYmm, State.reset]

theorem State.reset_readGpr (i : BitVec 4) : State.reset.readGpr i = 0 := by
  simp [State.readGpr, State.reset]

/-- Settles O52: the register files are filled with zero, and every other value is one field of the reset state. -/
theorem resetValues : Obligations.ResetValues :=
  ⟨fun i => ⟨State.reset_readMm i, State.reset_readX87 i⟩, State.reset_readYmm, fun i _ _ => State.reset_readGpr i,
    rfl, rfl, rfl, rfl, rfl, rfl, rfl, rfl, rfl, rfl, rfl, rfl, rfl⟩

end Sys2Proof.Machine

/-!
PROOFS (spec/30_encoding.md, rules R25 and R57): a completed step advances `pc` by the length of the instruction at
`pc`. The decoder is followed from the inside out (displacement, operand, opcode, REX or VEX bytes, legacy prefixes):
what each part accepts is what the encoder writes for it, and the term read is well-formed. Then the fetch.
-/

namespace Sys2Proof

/-! ## Displacements (rules R73 and R74) -/

theorem disp32Bytes_of_decodeDisp32 {bytes rest : List Byte} {d : BitVec 32}
    (h : decodeDisp32 bytes = some (d, rest)) : disp32Bytes d ++ rest = bytes := by
  unfold decodeDisp32 at h
  split at h
  · next b0 b1 b2 b3 tail =>
    obtain ⟨rfl, rfl⟩ : b3 ++ b2 ++ b1 ++ b0 = d ∧ tail = rest := by simpa using h
    have byte0 : (b3 ++ b2 ++ b1 ++ b0).extractLsb' 0 8 = b0 := by
      rw [BitVec.extractLsb'_append_eq_of_add_le (by decide), BitVec.extractLsb'_eq_self]
    have byte1 : (b3 ++ b2 ++ b1 ++ b0).extractLsb' 8 8 = b1 := by
      rw [BitVec.extractLsb'_append_eq_of_le (by decide), BitVec.extractLsb'_append_eq_of_add_le (by decide),
        BitVec.extractLsb'_eq_self]
    have byte2 : (b3 ++ b2 ++ b1 ++ b0).extractLsb' 16 8 = b2 := by
      rw [BitVec.extractLsb'_append_eq_of_le (by decide), BitVec.extractLsb'_append_eq_of_le (by decide),
        BitVec.extractLsb'_append_eq_of_add_le (by decide), BitVec.extractLsb'_eq_self]
    have byte3 : (b3 ++ b2 ++ b1 ++ b0).extractLsb' 24 8 = b3 := by
      rw [BitVec.extractLsb'_append_eq_of_le (by decide), BitVec.extractLsb'_append_eq_of_le (by decide),
        BitVec.extractLsb'_append_eq_of_le (by decide), BitVec.extractLsb'_eq_self]
    simp only [disp32Bytes, byte0, byte1, byte2, byte3, List.cons_append, List.nil_append]
  · simp at h

/-- The displacement read has the `mod` field it was read for, and the bytes it was read from. -/
theorem decodeDisp_some {mod : BitVec 2} {bytes rest : List Byte} {disp : Disp} (notReg : mod ≠ 3)
    (h : decodeDisp mod bytes = some (disp, rest)) : disp.mod = mod ∧ disp.bytes ++ rest = bytes := by
  unfold decodeDisp at h
  split_ifs at h with mod0 mod1
  · obtain ⟨rfl, rfl⟩ : Disp.none = disp ∧ bytes = rest := by simpa using h
    exact ⟨mod0.symm, rfl⟩
  · cases bytes with
    | nil => simp at h
    | cons b tail =>
      obtain ⟨rfl, rfl⟩ : Disp.d8 b = disp ∧ tail = rest := by simpa using h
      exact ⟨mod1.symm, rfl⟩
  · cases hd : decodeDisp32 bytes with
    | none => simp [hd] at h
    | some read =>
      obtain ⟨d, tail⟩ := read
      obtain ⟨rfl, rfl⟩ : Disp.d32 d = disp ∧ tail = rest := by simpa [hd] using h
      have mod2 : ∀ x : BitVec 2, x ≠ 0 → x ≠ 1 → x ≠ 3 → 2 = x := by decide
      exact ⟨mod2 mod mod0 mod1 notReg, disp32Bytes_of_decodeDisp32 hd⟩

/-! ## The r/m operand (rules R70 to R76) -/

/-- The operand `src` was read from a ModRM byte with fields `mod` and `rm` and the bytes after it, with extension
bits `x` and `b`: it is what the encoder writes as those bytes, and it is well-formed there. -/
structure OperandRead {w : Nat} (x b : Bool) (mod : BitVec 2) (rm : BitVec 3) (bytes : List Byte) (src : Rm w)
    (rest : List Byte) : Prop where
  encoded : ∀ reg, encodeRm reg src ++ rest = fieldByte mod reg rm :: bytes
  shape : rmOk src = true
  extX : rmX src = (usesX src && x)
  extB : rmB src = (usesB src && b)
  address : ∀ m ps, address16 m ps mod = false → addressOk m ps src = true

/-- An admitted memory operand does not use 16-bit addressing (rule R78). -/
theorem addressOk_mem {w : Nat} {m : Mode} {ps : List LegacyPrefix} {mod : BitVec 2} (mo : MemOperand)
    (notReg : mod ≠ 3) (h : address16 m ps mod = false) : addressOk m ps (.mem mo : Rm w) = true := by
  have asked : address16 m ps mod = (decide (m = .m32) && decide (LegacyPrefix.addrSize ∈ ps)) := by
    rw [address16, decide_eq_true notReg, Bool.and_true]
  rw [addressOk, ← asked, h]
  rfl

section shapes

variable {w : Nat} {x b : Bool} {mod : BitVec 2} {bytes rest : List Byte}

theorem operandRead_base {rm : BitVec 3} {disp : Disp} (notReg : mod ≠ 3) (notSib : rm ≠ 4)
    (notDisp32 : ¬(rm = 5 ∧ mod = 0)) (h : decodeDisp mod bytes = some (disp, rest)) :
    OperandRead x b mod rm bytes (.mem (.base (regNumber 4 b rm) disp) : Rm w) rest := by
  obtain ⟨hmod, hbytes⟩ := decodeDisp_some notReg h
  have based : rm = 5 → disp ≠ .none := by
    rintro five rfl
    exact notDisp32 ⟨five, hmod.symm⟩
  exact
    { encoded := fun reg => by simp [encodeRm, regNumber_field, hmod, hbytes]
      shape := by simpa [rmOk, memOk, baseOk, regNumber_field] using And.intro notSib (not_or_of_imp based)
      extX := rfl
      extB := regNumber_ext _ _
      address := fun _ _ => addressOk_mem _ notReg }

theorem operandRead_disp32 {d : BitVec 32} (h : decodeDisp32 bytes = some (d, rest)) :
    OperandRead x b 0 5 bytes (.mem (.disp32 d) : Rm w) rest where
  encoded := fun reg => by simp [encodeRm, disp32Bytes_of_decodeDisp32 h]
  shape := rfl
  extX := rfl
  extB := rfl
  address := fun _ _ => addressOk_mem _ (by decide)

theorem operandRead_sib {s : Byte} {disp : Disp} (notReg : mod ≠ 3) (based : ¬(byteLow s = 5 ∧ mod = 0))
    (h : decodeDisp mod bytes = some (disp, rest)) :
    OperandRead x b mod 4 (s :: bytes)
      (.mem (.sib (byteTop s) (regNumber 4 x (byteMid s)) (regNumber 4 b (byteLow s)) disp) : Rm w) rest := by
  obtain ⟨hmod, hbytes⟩ := decodeDisp_some notReg h
  have displaced : byteLow s = 5 → disp ≠ .none := by
    rintro low rfl
    exact based ⟨low, hmod.symm⟩
  exact
    { encoded := fun reg => by simp [encodeRm, regNumber_field, fieldByte_fields, hmod, hbytes]
      shape := by simpa [rmOk, memOk, sibBaseOk, regNumber_field] using not_or_of_imp displaced
      extX := regNumber_ext _ _
      extB := regNumber_ext _ _
      address := fun _ _ => addressOk_mem _ notReg }

theorem operandRead_sibNoBase {s : Byte} {d : BitVec 32} (low : byteLow s = 5)
    (h : decodeDisp32 bytes = some (d, rest)) :
    OperandRead x b 0 4 (s :: bytes) (.mem (.sibNoBase (byteTop s) (regNumber 4 x (byteMid s)) d) : Rm w) rest := by
  have sibByte : fieldByte (byteTop s) (byteMid s) 5#3 = s := by
    have parts := fieldByte_fields s
    rwa [low] at parts
  exact
    { encoded := fun reg => by simp [encodeRm, regNumber_field, sibByte, disp32Bytes_of_decodeDisp32 h]
      shape := rfl
      extX := regNumber_ext _ _
      extB := rfl
      address := fun _ _ => addressOk_mem _ (by decide) }

theorem decodeMem_some {rm : BitVec 3} {mo : MemOperand} (notReg : mod ≠ 3)
    (h : decodeMem x b mod rm bytes = some (mo, rest)) :
    OperandRead x b mod rm bytes (.mem mo : Rm w) rest := by
  unfold decodeMem at h
  split_ifs at h with sib disp32
  · subst sib
    cases bytes with
    | nil => simp at h
    | cons s tail =>
      simp only at h
      split_ifs at h with noBase
      · obtain ⟨low, rfl⟩ := noBase
        split at h
        · simp at h
        · next d tail' hd =>
          obtain ⟨rfl, rfl⟩ : _ = mo ∧ tail' = rest := by simpa using h
          exact operandRead_sibNoBase low hd
      · split at h
        · simp at h
        · next disp tail' hd =>
          obtain ⟨rfl, rfl⟩ : _ = mo ∧ tail' = rest := by simpa using h
          exact operandRead_sib notReg noBase hd
  · obtain ⟨rfl, rfl⟩ := disp32
    split at h
    · simp at h
    · next d tail hd =>
      obtain ⟨rfl, rfl⟩ : _ = mo ∧ tail = rest := by simpa using h
      exact operandRead_disp32 hd
  · split at h
    · simp at h
    · next disp tail hd =>
      obtain ⟨rfl, rfl⟩ : _ = mo ∧ tail = rest := by simpa using h
      exact operandRead_base notReg sib disp32 hd

end shapes

/-- A file of `w`-bit register numbers has room for the extension bit `ext` of the field `field` (rule R72). -/
abbrev FitsFile (w : Nat) (ext : Bool) (field : BitVec 3) : Prop :=
  (regNumber w ext field).getLsbD 3 = ext ∧ (regNumber w ext field).setWidth 3 = field

/-- A register operand must fit its file. -/
theorem decodeRm_some {w : Nat} {x b : Bool} {mod : BitVec 2} {rm : BitVec 3} {bytes rest : List Byte} {src : Rm w}
    (fits : mod = 3 → FitsFile w b rm)
    (h : decodeRm w x b mod rm bytes = some (src, rest)) : OperandRead x b mod rm bytes src rest := by
  unfold decodeRm at h
  split_ifs at h with isReg
  · obtain ⟨rfl, rfl⟩ : Rm.reg (regNumber w b rm) = src ∧ bytes = rest := by simpa using h
    obtain ⟨ext, field⟩ := fits isReg
    exact
      { encoded := fun reg => by simp [encodeRm, field, isReg]
        shape := rfl
        extX := rfl
        extB := ext
        address := fun _ _ _ => rfl }
  · cases hm : decodeMem x b mod rm bytes with
    | none => simp [hm] at h
    | some read =>
      obtain ⟨mo, tail⟩ := read
      obtain ⟨rfl, rfl⟩ : Rm.mem mo = src ∧ tail = rest := by simpa [hm] using h
      exact decodeMem_some isReg hm

/-- A number of the vector file has a place for the extension bit. -/
theorem fitsFile_vec (ext : Bool) (field : BitVec 3) : FitsFile 4 ext field :=
  ⟨regNumber_ext ext field, regNumber_field ext field⟩

/-- A number of the MMX file has none, and needs none when the bit is clear. -/
theorem fitsFile_mmx {ext : Bool} (clear : ext = false) (field : BitVec 3) : FitsFile 3 ext field := by
  simp [FitsFile, regNumber_mmx, clear]

/-! ## Extension bits: the bits the operands take and the spare ones make up the byte -/

theorem OperandRead.ext_spare {w : Nat} {e : ExtBits} {mod : BitVec 2} {rm : BitVec 3} {bytes rest : List Byte}
    {src : Rm w} (h : OperandRead e.x e.b mod rm bytes src rest) :
    (rmX src || (spareOf src e).x) = e.x ∧ (rmB src || (spareOf src e).b) = e.b := by
  rw [h.extX, h.extB]
  simp only [spareOf]
  exact ⟨by cases usesX src <;> simp, by cases usesB src <;> simp⟩

/-- A spare bit is never one that the operand takes. -/
theorem spareOk_spareOf {w : Nat} (src : Rm w) (e : ExtBits) : spareOk src (spareOf src e) = true := by
  simp only [spareOk, spareOf]
  cases usesX src <;> cases usesB src <;> simp

/-- An operand needs no extension bit that is clear. -/
theorem OperandRead.ext_clear {w : Nat} {x b : Bool} {mod : BitVec 2} {rm : BitVec 3} {bytes rest : List Byte}
    {src : Rm w} (h : OperandRead x b mod rm bytes src rest) (hx : x = false) (hb : b = false) :
    rmX src = false ∧ rmB src = false := by
  rw [h.extX, h.extB]
  simp [hx, hb]

/-! ## Opcode and operation -/

theorem byte_of_opOfByte {b : Byte} {op : PackOp} (h : opOfByte b = some op) : op.byte = b := by
  unfold opOfByte at h
  split_ifs at h with wb dw
  · obtain rfl : PackOp.wb = op := by simpa using h
    exact wb.symm
  · obtain rfl : PackOp.dw = op := by simpa using h
    exact dw.symm

theorem encode_mmInstr (op : PackOp) (e : LegacyEnc) (d : BitVec 3) (src : Rm 3) :
    encode (mmInstr op e d src) = encodeLegacy op e d src := by cases op <;> rfl

theorem encode_sseInstr (op : PackOp) (e : LegacyEnc) (d : BitVec 4) (src : Rm 4) :
    encode (sseInstr op e d src) = encodeLegacy op e d src := by cases op <;> rfl

theorem encode_vexInstr (l : Bool) (op : PackOp) (e : VexEnc) (d v : BitVec 4) (src : Rm 4) :
    encode (vexInstr l op e d v src) = encodeVex op l e d v src := by cases op <;> cases l <;> rfl

theorem wellFormed_mmInstr (m : Mode) (op : PackOp) (e : LegacyEnc) (d : BitVec 3) (src : Rm 3) :
    wellFormed m (mmInstr op e d src) = legacyOk m false e d src := by cases op <;> rfl

theorem wellFormed_sseInstr (m : Mode) (op : PackOp) (e : LegacyEnc) (d : BitVec 4) (src : Rm 4) :
    wellFormed m (sseInstr op e d src) = legacyOk m true e d src := by cases op <;> rfl

theorem wellFormed_vexInstr (m : Mode) (l : Bool) (op : PackOp) (e : VexEnc) (d v : BitVec 4) (src : Rm 4) :
    wellFormed m (vexInstr l op e d v src) = vexOk m e d v src := by cases op <;> cases l <;> rfl

/-- The bytes are an instruction of the mode and then `rest`. -/
abbrev Spells (m : Mode) (i : Instr) (rest bytes : List Byte) : Prop :=
  wellFormed m i = true ∧ encode i ++ rest = bytes

/-! ## Non-VEX forms (rules R63 and R64) -/

/-- The REX byte that holds the bits `e`, if there is one. -/
def rexPrefix (rex : Bool) (e : ExtBits) : List Byte :=
  if rex then [4#4 ++ BitVec.ofBool e.w ++ BitVec.ofBool e.r ++ BitVec.ofBool e.x ++ BitVec.ofBool e.b] else []

/-- How the decoder records a REX byte, or a third VEX byte, in the term. -/
def recordedSpare {w : Nat} (rex : Bool) (src : Rm w) (e : ExtBits) : Option SpareBits :=
  if rex then some (spareOf src e) else none

/-- A REX byte stands in `M64` only, and without one every bit is clear. -/
def RexAdmitted (m : Mode) (rex : Bool) (e : ExtBits) : Prop :=
  (rex = true → m = .m64) ∧ (rex = false → e = noExt)

/-- One argument for both register files: destination and operand, read with the REX bits `e`, are spelled by that
REX byte, the opcode, and the operand bytes. -/
theorem legacy_spelled {w : Nat} {m : Mode} {sse rex : Bool} {ps : List LegacyPrefix} {e : ExtBits} {op : PackOp}
    {modrm : Byte} {bytes rest : List Byte} {src : Rm w} (distinct : prefixesDistinct ps = true)
    (admitted : RexAdmitted m rex e) (size : decide (LegacyPrefix.opSize ∈ ps) = sse)
    (addr : address16 m ps (byteTop modrm) = false) (fits : FitsFile w e.r (byteMid modrm))
    (read : OperandRead e.x e.b (byteTop modrm) (byteLow modrm) bytes src rest) :
    legacyOk m sse ⟨ps, recordedSpare rex src e⟩ (regNumber w e.r (byteMid modrm)) src = true ∧
      encodeLegacy op ⟨ps, recordedSpare rex src e⟩ (regNumber w e.r (byteMid modrm)) src ++ rest =
        ps.map LegacyPrefix.byte ++ (rexPrefix rex e ++ 0x0F :: op.byte :: modrm :: bytes) := by
  obtain ⟨inM64, without⟩ := admitted
  obtain ⟨ext, field⟩ := fits
  have operands := read.encoded (byteMid modrm)
  rw [fieldByte_fields] at operands
  have rexFits : rexOk m (regNumber w e.r (byteMid modrm)) src (recordedSpare rex src e) = true := by
    cases rex with
    | true => simp [recordedSpare, rexOk, inM64 rfl, spareOk_spareOf]
    | false =>
      have clear := without rfl
      obtain ⟨noX, noB⟩ := read.ext_clear (by rw [clear]; rfl) (by rw [clear]; rfl)
      have noR : e.r = false := by rw [clear]; rfl
      rw [recordedSpare, if_neg (by simp), rexOk, lowRegisters, ext, noR, noX, noB]; rfl
  have rexEncoded : rexBytes (regNumber w e.r (byteMid modrm)) src (recordedSpare rex src e) = rexPrefix rex e := by
    cases rex with
    | true =>
      obtain ⟨extX, extB⟩ := read.ext_spare
      simp only [recordedSpare, rexBytes, rexPrefix, ext, extX, extB, if_true]
      rfl
    | false => rfl
  constructor
  · simp [legacyOk, distinct, size, read.shape, rexFits, read.address m ps addr]
  · simp [encodeLegacy, rexEncoded, field, operands]

theorem decodeLegacyOperands_form {m : Mode} {ps : List LegacyPrefix} {rex : Bool} {e : ExtBits} {op : PackOp}
    {bytes rest : List Byte} {i : Instr} (distinct : prefixesDistinct ps = true) (admitted : RexAdmitted m rex e)
    (h : decodeLegacyOperands m ps rex e op bytes = .form i rest) :
    Spells m i rest (ps.map LegacyPrefix.byte ++ (rexPrefix rex e ++ 0x0F :: op.byte :: bytes)) := by
  cases bytes with
  | nil => simp [decodeLegacyOperands] at h
  | cons modrm tail =>
    simp only [decodeLegacyOperands] at h
    by_cases size : LegacyPrefix.opSize ∈ ps
    · rw [if_pos size] at h
      by_cases addr : address16 m ps (byteTop modrm) = true
      · rw [if_pos addr] at h
        cases h
      rw [if_neg addr] at h
      cases hr : decodeRm 4 e.x e.b (byteTop modrm) (byteLow modrm) tail with
      | none => simp [hr] at h
      | some read =>
        obtain ⟨src, tail'⟩ := read
        obtain ⟨rfl, rfl⟩ : sseInstr op ⟨ps, recordedSpare rex src e⟩ (regNumber 4 e.r (byteMid modrm)) src = i ∧
            tail' = rest := by simpa [hr, recordedSpare] using h
        rw [Spells, wellFormed_sseInstr, encode_sseInstr]
        exact legacy_spelled distinct admitted (by simpa using size) (by simpa using addr) (fitsFile_vec _ _)
          (decodeRm_some (fun _ => fitsFile_vec _ _) hr)
    · rw [if_neg size] at h
      by_cases mmxBits : (e.r || (e.b && decide (byteTop modrm = 3))) = true
      · rw [if_pos mmxBits] at h
        cases h
      rw [if_neg mmxBits] at h
      by_cases addr : address16 m ps (byteTop modrm) = true
      · rw [if_pos addr] at h
        cases h
      rw [if_neg addr] at h
      obtain ⟨noR, noB⟩ : e.r = false ∧ (e.b = true → byteTop modrm ≠ 3) := by simpa using mmxBits
      cases hr : decodeRm 3 e.x e.b (byteTop modrm) (byteLow modrm) tail with
      | none => simp [hr] at h
      | some read =>
        obtain ⟨src, tail'⟩ := read
        obtain ⟨rfl, rfl⟩ : mmInstr op ⟨ps, recordedSpare rex src e⟩ (regNumber 3 e.r (byteMid modrm)) src = i ∧
            tail' = rest := by simpa [hr, recordedSpare] using h
        have clear : byteTop modrm = 3 → e.b = false := fun isReg => Bool.eq_false_iff.2 fun set => noB set isReg
        rw [Spells, wellFormed_mmInstr, encode_mmInstr]
        exact legacy_spelled distinct admitted (by simpa using size) (by simpa using addr) (fitsFile_mmx noR _)
          (decodeRm_some (fun isReg => fitsFile_mmx (clear isReg) _) hr)

theorem decodeLegacy_form {m : Mode} {ps : List LegacyPrefix} {lock rex : Bool} {e : ExtBits}
    {bytes rest : List Byte} {i : Instr} (distinct : prefixesDistinct ps = true) (admitted : RexAdmitted m rex e)
    (h : decodeLegacy m ps lock rex e bytes = .form i rest) :
    lock = false ∧ Spells m i rest (ps.map LegacyPrefix.byte ++ (rexPrefix rex e ++ 0x0F :: bytes)) := by
  cases bytes with
  | nil => simp [decodeLegacy] at h
  | cons ob tail =>
    cases hop : opOfByte ob with
    | none => simp [decodeLegacy, hop] at h
    | some op =>
      cases lock with
      | true => simp [decodeLegacy, hop] at h
      | false =>
        rw [← byte_of_opOfByte hop]
        exact ⟨rfl, decodeLegacyOperands_form distinct admitted (by simpa [decodeLegacy, hop] using h)⟩

/-! ## VEX forms (rules R66 to R69 and R81) -/

/-- The two or three VEX bytes that hold the bits `e`, `v` and `l`. -/
def vexPrefix (three : Bool) (e : ExtBits) (v : BitVec 4) (l : Bool) : List Byte :=
  if three then
    [0xC4, BitVec.ofBool (!e.r) ++ BitVec.ofBool (!e.x) ++ BitVec.ofBool (!e.b) ++ 1#5,
      BitVec.ofBool e.w ++ ~~~v ++ BitVec.ofBool l ++ 1#2]
  else [0xC5, BitVec.ofBool (!e.r) ++ ~~~v ++ BitVec.ofBool l ++ 1#2]

/-- Two bytes have no place for X and B, and in `M32` no register above 7 can be named. -/
def VexAdmitted (m : Mode) (three : Bool) (e : ExtBits) (v : BitVec 4) : Prop :=
  (three = false → e.x = false ∧ e.b = false) ∧
    (m = .m32 → e.r = false ∧ e.x = false ∧ e.b = false ∧ v.getLsbD 3 = false)

theorem vex_spelled {m : Mode} {three : Bool} {ps : List LegacyPrefix} {e : ExtBits} {v : BitVec 4} {l : Bool}
    {op : PackOp} {modrm : Byte} {bytes rest : List Byte} {src : Rm 4} (distinct : prefixesDistinct ps = true)
    (admitted : VexAdmitted m three e v) (size : LegacyPrefix.opSize ∉ ps)
    (addr : address16 m ps (byteTop modrm) = false)
    (read : OperandRead e.x e.b (byteTop modrm) (byteLow modrm) bytes src rest) :
    vexOk m ⟨ps, recordedSpare three src e⟩ (regNumber 4 e.r (byteMid modrm)) v src = true ∧
      encodeVex op l ⟨ps, recordedSpare three src e⟩ (regNumber 4 e.r (byteMid modrm)) v src ++ rest =
        ps.map LegacyPrefix.byte ++ (vexPrefix three e v l ++ op.byte :: modrm :: bytes) := by
  obtain ⟨two, in32⟩ := admitted
  have operands := read.encoded (byteMid modrm)
  rw [fieldByte_fields] at operands
  have prefixFits :
      vexPrefixOk m (regNumber 4 e.r (byteMid modrm)) v src (recordedSpare three src e) = true := by
    cases three with
    | true =>
      cases m with
      | m64 => simp [recordedSpare, vexPrefixOk, spareOk_spareOf]
      | m32 =>
        obtain ⟨noR, noX, noB, noV⟩ := in32 rfl
        obtain ⟨lowX, lowB⟩ := read.ext_clear noX noB
        have spareFits := spareOk_spareOf src e
        simp_all [recordedSpare, vexPrefixOk, lowRegisters, regNumber_ext, spareOf, -BitVec.getLsbD_eq_getElem]
    | false =>
      obtain ⟨noX, noB⟩ := two rfl
      obtain ⟨lowX, lowB⟩ := read.ext_clear noX noB
      cases m with
      | m64 => simp [recordedSpare, vexPrefixOk, lowX, lowB]
      | m32 =>
        obtain ⟨noR, -, -, noV⟩ := in32 rfl
        simp [recordedSpare, vexPrefixOk, regNumber_ext, noR, noV, lowX, lowB, -BitVec.getLsbD_eq_getElem]
  have prefixEncoded :
      vexBytes (regNumber 4 e.r (byteMid modrm)) v src l (recordedSpare three src e) = vexPrefix three e v l := by
    cases three with
    | true =>
      obtain ⟨extX, extB⟩ := read.ext_spare
      simp only [recordedSpare, vexBytes, vexPrefix, regNumber_ext, extX, extB, if_true]
      rfl
    | false => simp only [recordedSpare, vexBytes, vexPrefix, regNumber_ext, Bool.false_eq_true, if_false]
  constructor
  · simp [vexOk, distinct, size, read.shape, prefixFits, read.address m ps addr]
  · simp [encodeVex, prefixEncoded, regNumber_field, operands]

theorem decodeVexOperands_form {m : Mode} {ps : List LegacyPrefix} {three : Bool} {e : ExtBits} {v : BitVec 4}
    {l : Bool} {bytes rest : List Byte} {i : Instr} (distinct : prefixesDistinct ps = true)
    (size : LegacyPrefix.opSize ∉ ps) (admitted : VexAdmitted m three e v)
    (h : decodeVexOperands m ps three e v l bytes = .form i rest) :
    Spells m i rest (ps.map LegacyPrefix.byte ++ (vexPrefix three e v l ++ bytes)) := by
  cases bytes with
  | nil => simp [decodeVexOperands] at h
  | cons ob tail =>
    cases hop : opOfByte ob with
    | none => simp [decodeVexOperands, hop] at h
    | some op =>
      cases tail with
      | nil => simp [decodeVexOperands, hop] at h
      | cons modrm tail =>
        simp only [decodeVexOperands, hop] at h
        by_cases addr : address16 m ps (byteTop modrm) = true
        · rw [if_pos addr] at h
          cases h
        rw [if_neg addr] at h
        cases hr : decodeRm 4 e.x e.b (byteTop modrm) (byteLow modrm) tail with
        | none => simp [hr] at h
        | some read =>
          obtain ⟨src, tail'⟩ := read
          obtain ⟨rfl, rfl⟩ : vexInstr l op ⟨ps, recordedSpare three src e⟩ (regNumber 4 e.r (byteMid modrm)) v src =
              i ∧ tail' = rest := by simpa [hr, recordedSpare] using h
          rw [Spells, wellFormed_vexInstr, encode_vexInstr, ← byte_of_opOfByte hop]
          exact vex_spelled distinct admitted size (by simpa using addr)
            (decodeRm_some (fun _ => fitsFile_vec _ _) hr)

/-- The last VEX byte is its fields; bit 7 is R (inverted) in the two-byte spelling and W in the three-byte one. -/
theorem vexLast_fields : ∀ b : Byte, vexPpOk b = true →
    BitVec.ofBool (b.getLsbD 7) ++ ~~~vexV b ++ BitVec.ofBool (b.getLsbD 2) ++ 1#2 = b := by decide

/-- The second of three VEX bytes is its fields. -/
theorem vex3Second_fields : ∀ b : Byte, b.extractLsb' 0 5 = 1#5 →
    BitVec.ofBool (b.getLsbD 7) ++ BitVec.ofBool (b.getLsbD 6) ++ BitVec.ofBool (b.getLsbD 5) ++ 1#5 = b := by decide

/-- In `M32` bits 7:6 of a VEX byte are 11 (rule R81): the stored bits there are the inverse of clear ones. -/
theorem vexByte_high_bits : ∀ b : Byte, byteTop b = 3 →
    b.getLsbD 7 = true ∧ b.getLsbD 6 = true ∧ (vexV b).getLsbD 3 = false := by decide

theorem decodeVex2_form {m : Mode} {ps : List LegacyPrefix} {bytes rest : List Byte} {i : Instr}
    (distinct : prefixesDistinct ps = true) (size : LegacyPrefix.opSize ∉ ps)
    (vexByte : ∀ b ∈ bytes.head?, isVexByte m b = true) (h : decodeVex2 m ps bytes = .form i rest) :
    Spells m i rest (ps.map LegacyPrefix.byte ++ 0xC5 :: bytes) := by
  cases bytes with
  | nil => simp [decodeVex2] at h
  | cons b1 tail =>
    simp only [decodeVex2] at h
    split_ifs at h with pp
    have spelled := decodeVexOperands_form distinct size ⟨fun _ => ⟨rfl, rfl⟩, fun in32 => ?_⟩ h
    · simpa [vexPrefix, vexLast_fields b1 pp, -BitVec.getLsbD_eq_getElem] using spelled
    · subst in32
      obtain ⟨r, -, v⟩ := vexByte_high_bits b1 (by simpa [isVexByte] using vexByte)
      exact ⟨by simp [r], rfl, rfl, v⟩

theorem decodeVex3_form {m : Mode} {ps : List LegacyPrefix} {bytes rest : List Byte} {i : Instr}
    (distinct : prefixesDistinct ps = true) (size : LegacyPrefix.opSize ∉ ps)
    (vexByte : ∀ b ∈ bytes.head?, isVexByte m b = true) (h : decodeVex3 m ps bytes = .form i rest) :
    Spells m i rest (ps.map LegacyPrefix.byte ++ 0xC4 :: bytes) := by
  match bytes with
  | [] => simp [decodeVex3] at h
  | [_] => simp [decodeVex3] at h
  | b1 :: b2 :: tail =>
    simp only [decodeVex3] at h
    split_ifs at h with high layout
    obtain ⟨map, pp⟩ := layout
    have spelled := decodeVexOperands_form distinct size ⟨by simp, fun in32 => ?_⟩ h
    · simpa [vexPrefix, vex3Second_fields b1 map, vexLast_fields b2 pp, -BitVec.getLsbD_eq_getElem] using spelled
    · subst in32
      obtain ⟨r, x, -⟩ := vexByte_high_bits b1 (by simpa [isVexByte] using vexByte)
      obtain ⟨b, v⟩ : b1.getLsbD 5 = true ∧ (vexV b2).getLsbD 3 = false := by simpa using high
      exact ⟨by simp [r], by simp [x], by simp [b], v⟩

/-- LES, LDS and blocked VEX bytes are no forms; what is left is read as two or three VEX bytes. -/
theorem decodeVex_inv {m : Mode} {ps : List LegacyPrefix} {blocked three : Bool} {bytes rest : List Byte} {i : Instr}
    (h : decodeVex m ps blocked three bytes = .form i rest) :
    blocked = false ∧ (∀ b ∈ bytes.head?, isVexByte m b = true) ∧
      (if three then decodeVex3 m ps bytes else decodeVex2 m ps bytes) = .form i rest := by
  cases m with
  | m64 =>
    cases blocked with
    | true => simp [decodeVex] at h
    | false => exact ⟨rfl, fun _ _ => rfl, by simpa [decodeVex] using h⟩
  | m32 =>
    cases bytes with
    | nil => simp [decodeVex] at h
    | cons b1 tail =>
      by_cases vexByte : isVexByte .m32 b1 = true
      · cases blocked with
        | true => simp [decodeVex, vexByte] at h
        | false => exact ⟨rfl, by simpa using vexByte, by simpa [decodeVex, vexByte] using h⟩
      · simp [decodeVex, vexByte] at h

theorem decodeVex_form {m : Mode} {ps : List LegacyPrefix} {blocked three : Bool} {bytes rest : List Byte} {i : Instr}
    (distinct : prefixesDistinct ps = true) (size : LegacyPrefix.opSize ∉ ps)
    (h : decodeVex m ps blocked three bytes = .form i rest) :
    Spells m i rest (ps.map LegacyPrefix.byte ++ (if three then 0xC4 else 0xC5) :: bytes) := by
  obtain ⟨-, vexByte, h⟩ := decodeVex_inv h
  cases three with
  | true => exact decodeVex3_form distinct size vexByte h
  | false => exact decodeVex2_form distinct size vexByte h

/-! ## The opcode, the REX byte and the legacy prefixes (rule R86) -/

theorem decodeOpcode_form {m : Mode} {ps : List LegacyPrefix} {lock rex : Bool} {e : ExtBits}
    {bytes rest : List Byte} {i : Instr} (distinct : prefixesDistinct ps = true) (admitted : RexAdmitted m rex e)
    (h : decodeOpcode m ps lock rex e bytes = .form i rest) :
    lock = false ∧ Spells m i rest (ps.map LegacyPrefix.byte ++ (rexPrefix rex e ++ bytes)) := by
  have vexCase {three : Bool} {tail : List Byte}
      (hv : decodeVex m ps (decide (LegacyPrefix.opSize ∈ ps) || lock || rex) three tail = .form i rest) :
      lock = false ∧ Spells m i rest
        (ps.map LegacyPrefix.byte ++ (rexPrefix rex e ++ (if three then 0xC4 else 0xC5) :: tail)) := by
    obtain ⟨⟨size, noLock⟩, noRex⟩ : (LegacyPrefix.opSize ∉ ps ∧ lock = false) ∧ rex = false := by
      simpa using (decodeVex_inv hv).1
    subst noRex
    exact ⟨noLock, decodeVex_form distinct size hv⟩
  cases bytes with
  | nil => simp [decodeOpcode] at h
  | cons b tail =>
    simp only [decodeOpcode] at h
    split_ifs at h with escape vex3 vex2
    · exact escape ▸ decodeLegacy_form distinct admitted h
    · exact vex3 ▸ vexCase h
    · exact vex2 ▸ vexCase h

/-- A REX byte is its bits (rule R64). -/
theorem rexPrefix_rexBits : ∀ b : Byte, b.extractLsb' 4 4 = 4#4 → rexPrefix true (rexBits b) = [b] := by decide

theorem decodeAfterPrefixes_form {m : Mode} {ps : List LegacyPrefix} {lock : Bool} {bytes rest : List Byte} {i : Instr}
    (distinct : prefixesDistinct ps = true) (h : decodeAfterPrefixes m ps lock bytes = .form i rest) :
    lock = false ∧ Spells m i rest (ps.map LegacyPrefix.byte ++ bytes) := by
  cases bytes with
  | nil => simp [decodeAfterPrefixes] at h
  | cons b tail =>
    simp only [decodeAfterPrefixes] at h
    split_ifs at h with isRexByte
    · obtain ⟨in64, high⟩ : m = .m64 ∧ b.extractLsb' 4 4 = 4#4 := by simpa [isRex] using isRexByte
      have spelled := decodeOpcode_form distinct ⟨fun _ => in64, by simp⟩ h
      rwa [rexPrefix_rexBits b high] at spelled
    · exact decodeOpcode_form distinct ⟨by simp, fun _ => rfl⟩ h

theorem sameKind_comm (p q : LegacyPrefix) : sameKind p q = sameKind q p := by
  cases p <;> cases q <;> rfl

theorem prefixesDistinct_append (ps : List LegacyPrefix) (p : LegacyPrefix) :
    prefixesDistinct (ps ++ [p]) = (prefixesDistinct ps && !ps.any (sameKind p)) := by
  induction ps with
  | nil => rfl
  | cons q qs ih =>
    simp only [List.cons_append, prefixesDistinct, List.any_append, List.any_cons, List.any_nil, ih, sameKind_comm q p]
    cases sameKind p q <;> cases qs.any (sameKind q) <;> simp

/-- The prefixes scanned without a LOCK byte are distinct, and they are the bytes before the rest. -/
theorem scanPrefixes_done {seen ps : List LegacyPrefix} {lock lock' : Bool} {bytes rest : List Byte}
    (distinct : prefixesDistinct seen = true) (h : scanPrefixes seen lock bytes = .done ps lock' rest) :
    prefixesDistinct ps = true ∧
      (lock' = false → lock = false ∧
        ps.map LegacyPrefix.byte ++ rest = seen.map LegacyPrefix.byte ++ bytes) := by
  induction bytes generalizing seen lock with
  | nil => simp [scanPrefixes] at h
  | cons b tail ih =>
    simp only [scanPrefixes] at h
    split at h
    · obtain ⟨rfl, rfl, rfl⟩ : seen = ps ∧ lock = lock' ∧ b :: tail = rest := by simpa using h
      exact ⟨distinct, fun noLock => ⟨noLock, rfl⟩⟩
    · simp at h
    · split_ifs at h
      obtain ⟨distinct', bytesEq⟩ := ih distinct h
      exact ⟨distinct', fun noLock => absurd (bytesEq noLock).1 (by simp)⟩
    · next p isPrefix =>
      split_ifs at h with repeated
      have grown : prefixesDistinct (seen ++ [p]) = true := by simp [prefixesDistinct_append, distinct, repeated]
      obtain ⟨distinct', bytesEq⟩ := ih grown h
      refine ⟨distinct', fun noLock => ?_⟩
      obtain ⟨noLock', eq⟩ := bytesEq noLock
      exact ⟨noLock', by simpa [byte_of_prefixOfByte isPrefix] using eq⟩

/-- What the decoder reads as a form is an instruction of the mode, and the bytes are those the encoder writes. -/
theorem spells_of_decode {m : Mode} {bytes rest : List Byte} {i : Instr} (h : decode m bytes = .form i rest) :
    Spells m i rest bytes := by
  unfold decode at h
  split at h
  · simp at h
  · simp at h
  · next ps lock tail scanned =>
    obtain ⟨distinct, bytesEq⟩ := scanPrefixes_done rfl scanned
    obtain ⟨noLock, spelled⟩ := decodeAfterPrefixes_form distinct h
    obtain ⟨-, eq⟩ := bytesEq noLock
    rwa [eq] at spelled

end Sys2Proof

namespace Sys2Proof.Machine

/-! ## The fetch (rule R57) -/

theorem truncAddr_idem (m : Mode) (a : Quad) : truncAddr m (truncAddr m a) = truncAddr m a := by
  cases m with
  | m64 => rfl
  | m32 =>
    apply BitVec.eq_of_toNat_eq
    simp [truncAddr]

/-- The only byte of an access of one byte. -/
theorem byteAddr_zero (m : Mode) (lin : Quad) (k : Nat) : byteAddr m (byteAddr m lin k) 0 = byteAddr m lin k := by
  simp [byteAddr, truncAddr_idem]

/-- A byte is fetched only from a mapped address that no check and no denial stops. -/
theorem fetchByte_ok {s : State} {m : Mode} {k : Nat} {b : Byte} (h : fetchByte s m k = .ok b) :
    (m = .m64 → canonical s.laBits ((s.pc m).toNat + k) = true) ∧
      (m = .m32 → (s.pc m).toNat + k ≤ 0xFFFFFFFF) ∧
      (∀ x ∈ s.denials, ¬(x.kind = .fetch ∧ x.lin = byteAddr m (s.pc m) k ∧ x.size = 1)) ∧
      s.mem.read? (byteAddr m (s.pc m) k).toNat = some b := by
  simp only [fetchByte] at h
  split at h
  · cases h
  · next unblocked =>
    split at h
    · cases h
    · next bs accessed =>
      obtain ⟨undenied, read⟩ := access_ok accessed
      have bytes := readBytes_ok read
      simp only [accessAddrs, List.range_one, List.map_cons, List.map_nil, byteAddr_zero] at bytes
      obtain ⟨b', rfl⟩ : ∃ b', bs = [b'] := List.length_eq_one_iff.1 (by simpa using (congrArg List.length bytes).symm)
      obtain rfl : b' = b := by simpa using h
      refine ⟨?_, ?_, by simpa using undenied, by simpa using bytes⟩
      · rintro rfl
        simpa [fetchBlocked] using unblocked
      · rintro rfl
        have below : (s.pc .m32).toNat + k < 2 ^ 32 := by simpa [fetchBlocked] using unblocked
        omega

/-- The bytes fetched from byte `k` on were fetched one by one. -/
theorem fetchByte_of_fetchBytes {s : State} {m : Mode} (n k : Nat) :
    ∀ j (hj : j < (fetchBytes s m k n).1.length), fetchByte s m (k + j) = .ok (fetchBytes s m k n).1[j] := by
  induction n generalizing k with
  | zero => intro j hj; simp [fetchBytes] at hj
  | succ n ih =>
    intro j hj
    cases hb : fetchByte s m k with
    | error e => simp [fetchBytes, hb] at hj
    | ok b =>
      cases j with
      | zero => simp [fetchBytes, hb]
      | succ j =>
        simp only [fetchBytes, hb, List.length_cons] at hj
        have later := ih (k + 1) j (by omega)
        rw [show k + (j + 1) = k + 1 + j by omega, later]
        simp [fetchBytes, hb]

/-- What the fetch answers stands at `pc`. -/
theorem codeAt_fetchBytes (s : State) (m : Mode) (n : Nat) : CodeAt s m (fetchBytes s m 0 n).1 := by
  intro k hk
  have fetched := fetchByte_of_fetchBytes n 0 k hk
  rw [Nat.zero_add] at fetched
  rw [List.getElem?_eq_getElem hk]
  exact fetchByte_ok fetched

/-- The first bytes of what stands at `pc` stand there. -/
theorem CodeAt.left {s : State} {m : Mode} {bs rest : List Byte} (h : CodeAt s m (bs ++ rest)) : CodeAt s m bs := by
  intro k hk
  have code := h k (by rw [List.length_append]; omega)
  rwa [List.getElem?_append_left hk] at code

/-! ## The step -/

theorem encode_length (i : Instr) : (encode i).length = i.ilen := by
  cases i with
  | packsswbMm e d src => exact Laws.EncodeLength.packsswbMm e d src
  | packsswbXmm e d src => exact Laws.EncodeLength.packsswbXmm e d src
  | packssdwMm e d src => exact Laws.EncodeLength.packssdwMm e d src
  | packssdwXmm e d src => exact Laws.EncodeLength.packssdwXmm e d src
  | vpacksswbXmm e d v src => exact Laws.EncodeLength.vpacksswbXmm e d v src
  | vpackssdwXmm e d v src => exact Laws.EncodeLength.vpackssdwXmm e d v src
  | vpacksswbYmm e d v src => exact Laws.EncodeLength.vpacksswbYmm e d v src
  | vpackssdwYmm e d v src => exact Laws.EncodeLength.vpackssdwYmm e d v src

/-- A completed instruction moves `pc` by its length, in the mode the state runs in (rule R25). -/
theorem rip_of_exec {i : Instr} {s t : State} {m : Mode} (mode : s.runMode = .ok m) (h : exec i s = .next t) :
    t.rip = truncAddr m (s.rip + BitVec.ofNat 64 i.ilen) := by
  cases wroteDestination_of_exec h with
  | mmx m' d v mode' _ _ ht =>
    obtain rfl : m' = m := by simpa [mode] using mode'.symm
    rw [ht]
    rfl
  | vec m' d v mode' _ _ ht _ _ =>
    obtain rfl : m' = m := by simpa [mode] using mode'.symm
    rw [ht]
    rfl

/-- Settles O57: the step's instruction was decoded from the bytes at `pc`, whose beginning is therefore its
encoding, and the instruction moves `pc` by that many bytes. -/
theorem stepAdvancesPc : Obligations.StepAdvancesPc := by
  intro s t m mode h
  obtain ⟨m', i, mode', fetched, executed⟩ := step_next h
  obtain rfl : m' = m := by simpa [mode] using mode'.symm
  obtain ⟨rest, decoded⟩ := fetchDecode_ok fetched
  obtain ⟨wf, bytes⟩ := spells_of_decode decoded
  have code := codeAt_fetchBytes s m' maxInstrBytes
  rw [← bytes] at code
  exact ⟨i, wf, CodeAt.left code, executed, encode_length i ▸ rip_of_exec mode executed⟩

end Sys2Proof.Machine

/-!
PROOFS (spec/10_state.md, rules R26, R31 and R41): what a step can change at all. Everything else a step keeps, and with
it every parameter that is computed from it.
-/

namespace Sys2Proof.Machine

/-- A completed instruction changes `pc`, the two register files, the x87 fields and the model's own counter, and
nothing else; the pending bit of the x87 status word is among the bits it keeps. -/
theorem exec_frame {i : Instr} {s t : State} (h : exec i s = .next t) :
    t.x87Pending = s.x87Pending ∧ ∃ rip mm ymm fsw ftw x87hi openChoices,
      t = { s with rip, mm, ymm, fsw, ftw, x87hi, openChoices } := by
  cases wroteDestination_of_exec h with
  | mmx m d v _ _ _ ht =>
    subst ht
    exact ⟨State.writeMm_x87Pending s d v, _, _, _, _, _, _, _, rfl⟩
  | vec m d v _ _ _ ht _ _ =>
    subst ht
    exact ⟨rfl, _, _, _, _, _, _, _, rfl⟩

/-- Settles O31: the step ran one instruction, and no parameter is read from the fields that an instruction changes,
but for the pending bit, which it keeps. -/
theorem stepKeepsParameters : Obligations.StepKeepsParameters := by
  intro s t h
  obtain ⟨m, i, -, -, executed⟩ := step_next h
  obtain ⟨pending, rip, mm, ymm, fsw, ftw, x87hi, openChoices, rfl⟩ := exec_frame executed
  exact ⟨rfl, rfl, rfl, rfl, rfl, rfl, rfl, rfl, rfl, rfl, rfl, rfl, rfl, rfl, rfl, rfl, rfl, rfl,
    fun c => by cases c <;> rfl, rfl, pending, rfl⟩

end Sys2Proof.Machine

/-!
PROOFS (spec/20_memory.md): the read primitive. First what it answers, step by step of rule R43, and the bytes of a
value; then the canonical check of rule R48.
-/

namespace Sys2Proof.Machine

/-! ## Little-endian values (rule R42) -/

/-- Byte `k` of a list is byte `k` of its value, when the value has room for it. -/
theorem extractLsb'_leValue {w : Nat} {bs : List Byte} {k : Nat} (hk : k < bs.length) (room : 8 * bs.length ≤ w) :
    (leValue w bs).extractLsb' (8 * k) 8 = bs[k] := by
  induction bs generalizing k with
  | nil => simp at hk
  | cons b rest ih =>
    simp only [List.length_cons] at hk room
    apply BitVec.eq_of_getLsbD_eq
    intro j hj
    cases k with
    | zero => simp [leValue, hj, show j < w by omega]
    | succ k =>
      have above : ¬ 8 * (k + 1) + j < 8 := by omega
      have shifted : 8 * (k + 1) + j - 8 = 8 * k + j := by omega
      have byte := congrArg (BitVec.getLsbD · j) (ih (k := k) (by omega) (by omega))
      simp only [BitVec.getLsbD_extractLsb', hj, decide_true, Bool.true_and] at byte
      simp [leValue, hj, above, shifted, byte, show 8 * (k + 1) + j < w by omega,
        BitVec.getLsbD_of_ge b (8 * (k + 1) + j) (by omega), -BitVec.getLsbD_eq_getElem]

/-! ## `Access` (rule R46) -/

section access

variable {s : State} {m : Mode} {kind : AccessKind} {lin : Quad} {n : Nat}

theorem map_read?_accessAddrs_eq_iff {mem : Memory} {bs : List Byte} :
    (accessAddrs m lin n).map (fun a => mem.read? a.toNat) = bs.map some ↔
      bs.length = n ∧ ∀ k < n, mem.read? (byteAddr m lin k).toNat = bs[k]? := by
  constructor
  · intro mapped
    have len : bs.length = n := by simpa [accessAddrs] using (congrArg List.length mapped).symm
    refine ⟨len, fun k hk => ?_⟩
    have byte := congrArg (·[k]?) mapped
    simpa [accessAddrs, hk, len] using byte
  · rintro ⟨rfl, mapped⟩
    refine List.ext_getElem (by simp [accessAddrs]) fun k hk hk' => ?_
    simp only [List.length_map] at hk'
    simp [accessAddrs, mapped k hk', hk']

/-- `Access` answers exactly the bytes that are mapped, where no denial names the access. -/
theorem access_eq_ok_iff {bs : List Byte} : access s m kind lin n = .ok bs ↔
    bs.length = n ∧ (∀ x ∈ s.denials, ¬(x.kind = kind ∧ x.lin = lin ∧ x.size = n)) ∧
      ∀ k < n, s.mem.read? (byteAddr m lin k).toNat = bs[k]? := by
  constructor
  · intro answered
    obtain ⟨undenied, read⟩ := access_ok answered
    obtain ⟨len, mapped⟩ := map_read?_accessAddrs_eq_iff.1 (readBytes_ok read)
    exact ⟨len, by simpa using undenied, mapped⟩
  · rintro ⟨len, undenied, mapped⟩
    have noDenial : s.denials.find? (fun d => decide (d.kind = kind ∧ d.lin = lin ∧ d.size = n)) = none := by
      simpa using undenied
    simp only [access, noDenial, readBytes_mapped (map_read?_accessAddrs_eq_iff.2 ⟨len, mapped⟩)]

/-- `Access` answers the one denial that names the access. -/
theorem access_denied {x : Denial} (listed : x ∈ s.denials)
    (only : ∀ y ∈ s.denials, (y.kind = kind ∧ y.lin = lin ∧ y.size = n) ↔ y = x) :
    access s m kind lin n = .error (x.code, x.addr) := by
  cases found : s.denials.find? (fun d => decide (d.kind = kind ∧ d.lin = lin ∧ d.size = n)) with
  | none =>
    have undenied := List.find?_eq_none.1 found x listed
    exact absurd ((only x listed).2 rfl) (by simpa using undenied)
  | some y =>
    have named : y.kind = kind ∧ y.lin = lin ∧ y.size = n := by simpa using List.find?_some found
    obtain rfl := (only y (List.mem_of_find?_eq_some found)).1 named
    simp only [access, found]

/-- `Access` stops at the first byte that is not mapped, where no denial names the access. -/
theorem access_unmapped {k : Nat} (hk : k < n)
    (undenied : ∀ x ∈ s.denials, ¬(x.kind = kind ∧ x.lin = lin ∧ x.size = n))
    (before : ∀ j < k, s.mem.read? (byteAddr m lin j).toNat ≠ none)
    (here : s.mem.read? (byteAddr m lin k).toNat = none) :
    access s m kind lin n = .error (notPresentCode s kind, byteAddr m lin k) := by
  have noDenial : s.denials.find? (fun d => decide (d.kind = kind ∧ d.lin = lin ∧ d.size = n)) = none := by
    simpa using undenied
  have stopped : readBytes s.mem (accessAddrs m lin n) = .error (byteAddr m lin k) := by
    have first := readBytes_unmapped (mem := s.mem) (addrs := accessAddrs m lin n) (k := k) (by simpa [accessAddrs])
      (fun j hj => by simpa [accessAddrs] using before j hj) (by simpa [accessAddrs] using here)
    simpa [accessAddrs] using first
  simp only [access, noDenial, stopped]

end access

/-! ## The steps of `MemRead` (rule R43) -/

section memRead

variable {s : State} {m : Mode} {seg : Seg} {ea : Quad} {n : Nat} {align16 : Bool}

/-- Steps 2 to 4 pass exactly where neither rule R47 and R48 nor rule R44 is violated. -/
theorem operandFault_eq_none_iff : operandFault s m seg ea n align16 = none ↔
    ¬SegmentViolated s m seg ea n ∧ ¬Misaligned s m seg ea align16 := by
  rw [operandFault_none, ← segmentViolation_iff, ← alignViolation_iff, Bool.not_eq_true, Bool.not_eq_true]

/-- A violation through any segment but SS is #GP(0), aligned or not. -/
theorem operandFault_gp (violated : SegmentViolated s m seg ea n) (notStack : seg ≠ .ss) :
    operandFault s m seg ea n align16 = some .gp := by
  simp only [operandFault, (segmentViolation_iff s m seg ea n).2 violated, if_true, if_neg notStack]

/-- A violation through SS of an operand that is not misaligned is #SS(0). -/
theorem operandFault_ss (violated : SegmentViolated s m .ss ea n) (aligned : ¬Misaligned s m .ss ea align16) :
    operandFault s m .ss ea n align16 = some .ss := by
  rw [← alignViolation_iff] at aligned
  simp only [operandFault, (segmentViolation_iff s m .ss ea n).2 violated, if_true, if_neg aligned]

/-- A misalignment alone is #GP(0). -/
theorem operandFault_misaligned (inside : ¬SegmentViolated s m seg ea n)
    (misaligned : Misaligned s m seg ea align16) : operandFault s m seg ea n align16 = some .gp := by
  rw [← segmentViolation_iff] at inside
  simp only [operandFault, if_neg inside, (alignViolation_iff s m seg ea align16).2 misaligned, if_true]

/-- What steps 2 to 4 find is raised. -/
theorem memReadBytes_raise {x : Exception} (h : operandFault s m seg ea n align16 = some x) :
    memReadBytes s m seg ea n align16 = .error (.raise x) := by
  simp only [memReadBytes, h]

/-- Step 5: an operand that passed steps 2 to 4 is refused where alignment checking is on and it is not aligned. -/
theorem memReadBytes_refuse (passed : operandFault s m seg ea n align16 = none) (checked : s.acEnabled = true)
    (unaligned : (linearAddr s m seg ea).toNat % n ≠ 0) :
    memReadBytes s m seg ea n align16 = .error (.refuse .unalignedUnderAlignmentCheck) := by
  simp [memReadBytes, passed, checked, unaligned]

/-- Step 6: what `Access` answers for an operand that passed steps 2 to 5 is the answer. -/
theorem memReadBytes_answer {bs : List Byte} (reached : AccessReached s m seg ea n align16)
    (answer : access s m .data (linearAddr s m seg ea) n = .ok bs) : memReadBytes s m seg ea n align16 = .ok bs := by
  obtain ⟨inside, aligned, checked⟩ := reached
  simpa [memReadBytes, operandFault_eq_none_iff.2 ⟨inside, aligned⟩, answer] using checked

/-- Step 6: a page fault of `Access` is raised. -/
theorem memReadBytes_pageFault {code : BitVec 32} {addr : Quad} (reached : AccessReached s m seg ea n align16)
    (fault : access s m .data (linearAddr s m seg ea) n = .error (code, addr)) :
    memReadBytes s m seg ea n align16 = .error (.raise (.pf code addr)) := by
  obtain ⟨inside, aligned, checked⟩ := reached
  simpa [memReadBytes, operandFault_eq_none_iff.2 ⟨inside, aligned⟩, fault] using checked

/-- A readable operand passes steps 2 to 5 (rules R44, R45, R47 and R48). -/
theorem accessReached_of_readable {bs : List Byte} (h : Readable s m seg ea n align16 bs) :
    AccessReached s m seg ea n align16 := by
  obtain ⟨limit, canon, aligned, checked, -⟩ := h
  refine ⟨?_, fun ⟨asked, misaligned⟩ => misaligned (aligned asked), checked⟩
  rintro (⟨in32, beyond⟩ | ⟨in64, k, hk, notCanonical⟩)
  · have inside := limit in32
    omega
  · simp [canon in64 k hk] at notCanonical

/-- `MemRead` answers the value of its bytes. -/
theorem memRead_eq_ok_iff {v : BitVec (8 * n)} : memRead s m seg ea n align16 = .ok v ↔
    ∃ bs, memReadBytes s m seg ea n align16 = .ok bs ∧ leValue (8 * n) bs = v := by
  cases answer : memReadBytes s m seg ea n align16 with
  | error e => simp [memRead, answer]
  | ok bs => simp [memRead, answer]

end memRead

/-- Settles O47: a readable operand passes steps 2 to 5, and `Access` answers its bytes. -/
theorem memReadAnswersMappedBytes : Obligations.MemReadAnswersMappedBytes := by
  intro s m seg ea n align16 bs _ readable
  have ⟨_, _, _, _, mapped⟩ := readable
  have answer := memReadBytes_answer (accessReached_of_readable readable) (access_eq_ok_iff.2 mapped)
  exact memRead_eq_ok_iff.2 ⟨bs, answer, rfl⟩

/-- Settles O46: the value read is that of the mapped bytes, and a disp32 is read as it is written. -/
theorem operandsAreLittleEndian : Obligations.OperandsAreLittleEndian := by
  constructor
  · intro s m seg ea n align16 v read k hk
    obtain ⟨bs, answered, rfl⟩ := memRead_eq_ok_iff.1 read
    obtain ⟨-, -, accessed⟩ := memReadBytes_ok answered
    obtain ⟨rfl, -, mapped⟩ := access_eq_ok_iff.1 accessed
    rw [mapped k hk, extractLsb'_leValue hk (Nat.le_refl _), List.getElem?_eq_getElem hk]
  · intro b0 b1 b2 b3 rest
    have written := disp32Bytes_of_decodeDisp32 (bytes := b0 :: b1 :: b2 :: b3 :: rest) rfl
    exact ⟨_, rfl, by simpa [disp32Bytes] using written⟩

/-! ## The canonical check (rule R48) -/

/-- A number is below a power of two exactly when its bits from there on are clear. -/
theorem toNat_lt_two_pow_iff {w : Nat} (a : BitVec w) (n : Nat) :
    a.toNat < 2 ^ n ↔ ∀ k, n ≤ k → k < w → a.getLsbD k = false := by
  constructor
  · intro small k hk _
    exact Nat.testBit_lt_two_pow (Nat.lt_of_lt_of_le small (Nat.pow_le_pow_right (by decide) hk))
  · intro clear
    refine Nat.lt_pow_two_of_testBit _ fun k hk => ?_
    by_cases inside : k < w
    · exact clear k hk inside
    · exact BitVec.getLsbD_of_ge a k (by omega)

/-- A number is in the top `2 ^ n` of its width exactly when its bits from `n` on are set. -/
theorem two_pow_sub_le_toNat_iff {w : Nat} (a : BitVec w) (n : Nat) :
    2 ^ w - 2 ^ n ≤ a.toNat ↔ ∀ k, n ≤ k → k < w → a.getLsbD k = true := by
  have complement : 2 ^ w - 2 ^ n ≤ a.toNat ↔ (~~~a).toNat < 2 ^ n := by
    have bound := a.isLt
    have positive := Nat.two_pow_pos n
    rw [BitVec.toNat_not]
    omega
  rw [complement, toNat_lt_two_pow_iff]
  refine forall_congr' fun k => forall_congr' fun _ => forall_congr' fun hk => ?_
  simp [BitVec.getLsbD_not, hk, -BitVec.getLsbD_eq_getElem]

/-- Settles O50: the low canonical range is where the bits are all clear, the high one where they are all set. -/
theorem canonicalIsSignExtended : Obligations.CanonicalIsSignExtended := by
  intro la a
  have top : la.bits - 1 ≤ 63 := by cases la <;> decide
  simp only [canonical, Bool.or_eq_true, Bool.and_eq_true, decide_eq_true_eq, a.isLt, and_true,
    toNat_lt_two_pow_iff, two_pow_sub_le_toNat_iff]
  constructor
  · rintro (clear | set) k hk inside
    · rw [clear k hk inside, clear 63 top (by decide)]
    · rw [set k hk inside, set 63 top (by decide)]
  · intro same
    cases sign : a.getLsbD 63 with
    | false => exact .inl fun k hk inside => (same k hk inside).trans sign
    | true => exact .inr fun k hk inside => (same k hk inside).trans sign

end Sys2Proof.Machine

/-!
PROOFS (spec/20_memory.md section 3, spec/60_exceptions.md): what stops an instruction, from the state it begins in to
its memory operand. One lemma carries what the mode and form checks answer, one what the read primitive answers, to the
outcome of all eight instructions; each fault or refusal is then a fact about one check.
-/

namespace Sys2Proof.Machine

/-! ## From the form checks to the outcome (rule R96, steps 1 to 3) -/

section admission

variable {s : State} {x : Stop}

theorem runMm_not_admitted {pack : BitVec 64 → BitVec 64 → BitVec 64} {e : LegacyEnc} {d : BitVec 3} {src : Rm 3}
    (h : admitForm .mmx s = .error x) : runMm pack e d src s = .error x := by
  simp only [runMm, h]

theorem runSse_not_admitted {pack : BitVec 128 → BitVec 128 → BitVec 128} {e : LegacyEnc} {d : BitVec 4}
    {src : Rm 4} (h : admitForm .sse2 s = .error x) : runSse pack e d src s = .error x := by
  simp only [runSse, h]

theorem runVex128_not_admitted {pack : BitVec 128 → BitVec 128 → BitVec 128} {e : VexEnc} {d v : BitVec 4}
    {src : Rm 4} (h : admitForm .vex128 s = .error x) : runVex128 pack e d v src s = .error x := by
  simp only [runVex128, h]

theorem runVex256_not_admitted {pack : BitVec 256 → BitVec 256 → BitVec 256} {e : VexEnc} {d v : BitVec 4}
    {src : Rm 4} (h : admitForm .vex256 s = .error x) : runVex256 pack e d v src s = .error x := by
  simp only [runVex256, h]

/-- What the mode and form checks stop at ends the instruction. -/
theorem exec_of_admitForm_error {i : Instr} (h : admitForm (formClass i) s = .error x) :
    exec i s = finish s (.error x) := by
  cases i with
  | packsswbMm e d src | packssdwMm e d src => exact congrArg (finish s) (runMm_not_admitted h)
  | packsswbXmm e d src | packssdwXmm e d src => exact congrArg (finish s) (runSse_not_admitted h)
  | vpacksswbXmm e d v src | vpackssdwXmm e d v src => exact congrArg (finish s) (runVex128_not_admitted h)
  | vpacksswbYmm e d v src | vpackssdwYmm e d v src => exact congrArg (finish s) (runVex256_not_admitted h)

end admission

/-- A form whose launch premises hold is admitted. -/
theorem admitForm_of_formReady {c : FormClass} {s : State} {m : Mode} (h : FormReady c s m) :
    admitForm c s = .ok m := by
  obtain ⟨mode, premises⟩ := h
  exact admitForm_of_ready mode (formException_eq_none_iff.2 premises)

/-! ## From the read primitive to the outcome (rule R96, step 4) -/

/-- The segment and the effective address of a memory operand, if the source is one. -/
def sourceTarget {w : Nat} (s : State) (m : Mode) (prefixes : List LegacyPrefix) (ilen : Nat) :
    Rm w → Option (Seg × Quad)
  | .reg _ => none
  | .mem mo =>
    match addrSize m prefixes with
    | none => none
    | some a => some (operandSeg prefixes mo, effectiveAddr s m a (nextPc s m ilen) mo)

section source

variable {s : State} {m : Mode} {ps : List LegacyPrefix} {ilen : Nat} {seg : Seg} {ea : Quad} {x : Stop}

theorem memOperand_error {n : Nat} {align16 : Bool} {mo : MemOperand} {w : Nat}
    (target : sourceTarget s m ps ilen (.mem mo : Rm w) = some (seg, ea))
    (stop : memReadBytes s m seg ea n align16 = .error x) : memOperand s m ps ilen n align16 mo = .error x := by
  cases size : addrSize m ps with
  | none => simp [sourceTarget, size] at target
  | some a =>
    obtain ⟨rfl, rfl⟩ : operandSeg ps mo = seg ∧ effectiveAddr s m a (nextPc s m ilen) mo = ea := by
      simpa [sourceTarget, size] using target
    simp only [nextPc] at stop
    simp only [memOperand, size, memRead, stop]

theorem runMm_error {pack : BitVec 64 → BitVec 64 → BitVec 64} {e : LegacyEnc} {d : BitVec 3} {src : Rm 3}
    (admitted : admitForm .mmx s = .ok m)
    (target : sourceTarget s m e.prefixes (legacyLength e src) src = some (seg, ea))
    (stop : memReadBytes s m seg ea 8 false = .error x) : runMm pack e d src s = .error x := by
  cases src with
  | reg r => simp [sourceTarget] at target
  | mem mo => simp only [runMm, admitted, mmSource, memOperand_error target stop]

theorem runSse_error {pack : BitVec 128 → BitVec 128 → BitVec 128} {e : LegacyEnc} {d : BitVec 4} {src : Rm 4}
    (admitted : admitForm .sse2 s = .ok m)
    (target : sourceTarget s m e.prefixes (legacyLength e src) src = some (seg, ea))
    (stop : memReadBytes s m seg ea 16 true = .error x) : runSse pack e d src s = .error x := by
  cases src with
  | reg r => simp [sourceTarget] at target
  | mem mo => simp only [runSse, admitted, xmmSource, memOperand_error target stop]

theorem runVex128_error {pack : BitVec 128 → BitVec 128 → BitVec 128} {e : VexEnc} {d v : BitVec 4} {src : Rm 4}
    (admitted : admitForm .vex128 s = .ok m)
    (target : sourceTarget s m e.prefixes (vexLength e src) src = some (seg, ea))
    (stop : memReadBytes s m seg ea 16 false = .error x) : runVex128 pack e d v src s = .error x := by
  cases src with
  | reg r => simp [sourceTarget] at target
  | mem mo => simp only [runVex128, admitted, xmmSource, memOperand_error target stop]

theorem runVex256_error {pack : BitVec 256 → BitVec 256 → BitVec 256} {e : VexEnc} {d v : BitVec 4} {src : Rm 4}
    (admitted : admitForm .vex256 s = .ok m)
    (target : sourceTarget s m e.prefixes (vexLength e src) src = some (seg, ea))
    (stop : memReadBytes s m seg ea 32 false = .error x) : runVex256 pack e d v src s = .error x := by
  cases src with
  | reg r => simp [sourceTarget] at target
  | mem mo => simp only [runVex256, admitted, ymmSource, memOperand_error target stop]

end source

/-- What the read primitive stops at ends a ready instruction. -/
theorem exec_of_memReadBytes_error {i : Instr} {s : State} {m : Mode} {seg : Seg} {ea : Quad} {x : Stop}
    (ready : FormReady (formClass i) s m) (target : memTarget i s m = some (seg, ea))
    (stop : memReadBytes s m seg ea (formClass i).operandBytes (formClass i).align16 = .error x) :
    exec i s = finish s (.error x) := by
  have admitted := admitForm_of_formReady ready
  cases i with
  | packsswbMm e d src | packssdwMm e d src =>
    exact congrArg (finish s) (runMm_error admitted (by cases src <;> exact target) stop)
  | packsswbXmm e d src | packssdwXmm e d src =>
    exact congrArg (finish s) (runSse_error admitted (by cases src <;> exact target) stop)
  | vpacksswbXmm e d v src | vpackssdwXmm e d v src =>
    exact congrArg (finish s) (runVex128_error admitted (by cases src <;> exact target) stop)
  | vpacksswbYmm e d v src | vpackssdwYmm e d v src =>
    exact congrArg (finish s) (runVex256_error admitted (by cases src <;> exact target) stop)

/-! ## The faults and refusals of a memory operand (rules R124 to R126, decision D10) -/

/-- Settles O39: steps 2 and 3 of rule R43 raise by the operand's segment. -/
theorem segmentViolationFaults : Obligations.SegmentViolationFaults := by
  intro i s m seg ea ready target violated
  constructor
  · intro notStack
    exact exec_of_memReadBytes_error ready target (memReadBytes_raise (operandFault_gp violated notStack))
  · rintro rfl aligned
    exact exec_of_memReadBytes_error ready target (memReadBytes_raise (operandFault_ss violated aligned))

/-- Settles O40: a legacy SSE form asks for alignment, and step 4 of rule R43 raises. -/
theorem misalignedLegacySseFaults : Obligations.MisalignedLegacySseFaults := by
  intro i s m seg ea ready cls target inside misaligned
  have fault : operandFault s m seg ea (formClass i).operandBytes (formClass i).align16 = some .gp := by
    rw [cls]
    exact operandFault_misaligned inside ⟨rfl, misaligned⟩
  exact exec_of_memReadBytes_error ready target (memReadBytes_raise fault)

/-- Settles O42: steps 2 to 4 of rule R43 pass and step 5 refuses. -/
theorem unalignedUnderCheckRefused : Obligations.UnalignedUnderCheckRefused := by
  intro i s m seg ea ready target inside aligned checked unaligned
  have passed := operandFault_eq_none_iff.2 ⟨inside, aligned⟩
  exact exec_of_memReadBytes_error ready target (memReadBytes_refuse passed checked unaligned)

/-- The default error code of a data access: U/S at privilege level 3 (rule R46). -/
theorem notPresentCode_data (s : State) : notPresentCode s .data = if s.code.cpl = 3 then 4 else 0 := by
  simp [notPresentCode]

/-- Settles O43: `Access` is asked, and answers the denial or stops at the first byte that is not mapped. -/
theorem unmappedOperandPageFaults : Obligations.UnmappedOperandPageFaults := by
  intro i s m seg ea ready target reached
  constructor
  · intro x listed only
    exact exec_of_memReadBytes_error ready target (memReadBytes_pageFault reached (access_denied listed only))
  · intro k hk undenied before here
    rw [← notPresentCode_data]
    exact exec_of_memReadBytes_error ready target
      (memReadBytes_pageFault reached (access_unmapped hk undenied before here))

/-! ## States that are not run (rules R47, R136 and R152) -/

/-- A state that does not run is refused by the step for the reason it does not run. -/
theorem step_of_runMode_error {s : State} {r : Refusal} (h : s.runMode = .error r) : step s = .refused r := by
  simp only [step, h]

/-- Outside real-address and virtual-8086 mode it is refused by every instruction for that reason. -/
theorem exec_of_runMode_error {i : Instr} {s : State} {r : Refusal} (h : s.runMode = .error r)
    (notReal : s.cpuMode ≠ .real) (notV86 : s.cpuMode ≠ .virtual8086) : exec i s = .refused r :=
  exec_of_admitForm_error (x := .refuse r) (by simp [admitForm, admitMode, h, notReal, notV86])

theorem State.runMode_of_cpuMode {s : State} (not64 : s.cpuMode ≠ .long64) (not32 : s.cpuMode ≠ .prot32) :
    s.runMode = .error (.modeNotModelled s.cpuMode) := by
  cases mode : s.cpuMode <;> simp_all [State.runMode]

theorem State.runMode_of_debug {s : State} (mode : s.cpuMode = .long64 ∨ s.cpuMode = .prot32)
    (armed : s.tf = true ∨ s.breakpointsArmed = true) : s.runMode = .error .debugEventArmed := by
  rcases mode with mode | mode <;> simp [State.runMode, mode, armed]

theorem State.runMode_of_not_flat {s : State} (mode : s.cpuMode = .prot32) (noTrap : s.tf = false)
    (unarmed : s.breakpointsArmed = false) (notFlat : s.flat = false) : s.runMode = .error .segmentsNotFlat := by
  simp [State.runMode, mode, noTrap, unarmed, notFlat]

/-- Settles O36: each clause names why the state does not run; `M64` and `M32` are neither real-address nor
virtual-8086 mode. -/
theorem unmodelledStatesRefused : Obligations.UnmodelledStatesRefused := by
  intro i s
  refine ⟨fun not64 not32 => ?_, fun other => ?_, fun mode armed => ?_, fun mode noTrap unarmed segments => ?_⟩
  · exact step_of_runMode_error (State.runMode_of_cpuMode not64 not32)
  · have refused : s.runMode = .error (.modeNotModelled .other) := by
      rw [State.runMode_of_cpuMode (by simp [other]) (by simp [other]), other]
    exact exec_of_runMode_error refused (by simp [other]) (by simp [other])
  · have refused := State.runMode_of_debug mode armed
    refine ⟨exec_of_runMode_error refused ?_ ?_, step_of_runMode_error refused⟩ <;>
      rcases mode with mode | mode <;> simp [mode]
  · have notFlat : s.flat = false := by
      rw [Bool.eq_false_iff, Ne, State.flat_iff]
      rintro ⟨plain, es, cs, ss, ds⟩
      rcases segments with ⟨k, limit⟩ | h | h | h | h | ⟨k, marked⟩
      · exact limit (plain k).1
      · exact h es
      · exact h cs
      · exact h ss
      · exact h ds
      · obtain ⟨-, null, down, read⟩ := plain k
        rcases marked with h | h | h
        · cases null.symm.trans h
        · cases down.symm.trans h
        · cases read.symm.trans h
    have refused := State.runMode_of_not_flat mode noTrap unarmed notFlat
    exact ⟨exec_of_runMode_error refused (by simp [mode]) (by simp [mode]), step_of_runMode_error refused⟩

end Sys2Proof.Machine

/-!
PROOFS (spec/30_encoding.md, rules R53 and R82): a LOCK byte among the legacy prefixes of a form. The loop over the
prefixes reads the distinct ones of a form with the LOCK byte wherever it stands; what follows them stops at it.
-/

namespace Sys2Proof

/-! ## The loop over the prefixes (rule R86) -/

theorem prefixesDistinct_of_append {ps qs : List LegacyPrefix} (h : prefixesDistinct (ps ++ qs) = true) :
    prefixesDistinct ps = true := by
  induction ps with
  | nil => rfl
  | cons p ps ih =>
    simp only [List.cons_append, prefixesDistinct, List.any_append, Bool.and_eq_true, Bool.not_eq_true',
      Bool.or_eq_false_iff] at h ⊢
    obtain ⟨⟨fresh, -⟩, rest⟩ := h
    exact ⟨fresh, ih rest⟩

/-- The loop goes through distinct prefixes and records them in their order. -/
theorem scanPrefixes_prefixes {seen ps : List LegacyPrefix} {lock : Bool} {bytes : List Byte}
    (distinct : prefixesDistinct (seen ++ ps) = true) :
    scanPrefixes seen lock (ps.map LegacyPrefix.byte ++ bytes) = scanPrefixes (seen ++ ps) lock bytes := by
  induction ps generalizing seen with
  | nil => simp
  | cons p ps ih =>
    rw [← List.singleton_append, ← List.append_assoc] at distinct
    obtain ⟨-, fresh⟩ : prefixesDistinct seen = true ∧ seen.any (sameKind p) = false := by
      simpa only [prefixesDistinct_append, Bool.and_eq_true, Bool.not_eq_true'] using
        prefixesDistinct_of_append distinct
    rw [List.map_cons, List.cons_append, scanPrefixes]
    simp only [prefixOfByte_byte, fresh, Bool.false_eq_true, if_false, ih distinct, List.append_assoc,
      List.singleton_append]

/-- The loop records a first LOCK byte. -/
theorem scanPrefixes_lock (seen : List LegacyPrefix) (bytes : List Byte) :
    scanPrefixes seen false (0xF0 :: bytes) = scanPrefixes seen true bytes := rfl

/-- The loop ends before a byte that is none of the prefixes. -/
theorem scanPrefixes_end {seen : List LegacyPrefix} {lock : Bool} {b : Byte} {bytes : List Byte}
    (notPrefix : prefixOfByte b = none) : scanPrefixes seen lock (b :: bytes) = .done seen lock (b :: bytes) := by
  simp only [scanPrefixes, notPrefix]

/-! ## What follows the prefixes -/

/-- After the prefixes `ps` and a LOCK byte, the bytes `body` are #UD. -/
def StopsUnderLock (m : Mode) (ps : List LegacyPrefix) (body : List Byte) : Prop :=
  scanPrefixes ps true body = .done ps true body ∧ decodeAfterPrefixes m ps true body = .ud

/-- The LOCK byte may stand anywhere among the prefixes. -/
theorem StopsUnderLock.decode_eq_ud {m : Mode} {ps : List LegacyPrefix} {body : List Byte}
    (h : StopsUnderLock m ps body) (distinct : prefixesDistinct ps = true) (k : Nat) :
    decode m ((ps.take k).map LegacyPrefix.byte ++ 0xF0 :: ((ps.drop k).map LegacyPrefix.byte ++ body)) = .ud := by
  obtain ⟨ended, ud⟩ := h
  have split : prefixesDistinct (ps.take k ++ ps.drop k) = true := by rwa [List.take_append_drop]
  have scanned : scanPrefixes [] false
      ((ps.take k).map LegacyPrefix.byte ++ 0xF0 :: ((ps.drop k).map LegacyPrefix.byte ++ body)) =
        .done ps true body := by
    rw [scanPrefixes_prefixes (prefixesDistinct_of_append split), List.nil_append, scanPrefixes_lock,
      scanPrefixes_prefixes split, List.take_append_drop, ended]
  simp only [decode, scanned, ud]

theorem opOfByte_byte (op : PackOp) : opOfByte op.byte = some op := by cases op <;> rfl

/-- After a LOCK byte the two opcode bytes of a non-VEX form are #UD. -/
theorem decodeOpcode_lock_legacy (m : Mode) (ps : List LegacyPrefix) (rex : Bool) (e : ExtBits) (op : PackOp)
    (bytes : List Byte) : decodeOpcode m ps true rex e (0x0F :: op.byte :: bytes) = .ud := by
  simp [decodeOpcode, decodeLegacy, opOfByte_byte]

/-- A REX byte is none of the legacy prefixes. -/
theorem rexByte_kind : ∀ w r x b : Bool,
    prefixOfByte (4#4 ++ BitVec.ofBool w ++ BitVec.ofBool r ++ BitVec.ofBool x ++ BitVec.ofBool b) = none ∧
      isRex .m64 (4#4 ++ BitVec.ofBool w ++ BitVec.ofBool r ++ BitVec.ofBool x ++ BitVec.ofBool b) = true := by
  decide

/-- Without a REX byte the opcode follows the prefixes. -/
theorem decodeAfterPrefixes_of_not_rex {m : Mode} {ps : List LegacyPrefix} {lock : Bool} {b : Byte}
    {bytes : List Byte} (notRex : isRex m b = false) :
    decodeAfterPrefixes m ps lock (b :: bytes) = decodeOpcode m ps lock false noExt (b :: bytes) := by
  simp only [decodeAfterPrefixes, notRex, Bool.false_eq_true, if_false]

theorem isRex_opcode (m : Mode) : isRex m 0x0F = false ∧ isRex m 0xC4 = false ∧ isRex m 0xC5 = false := by
  cases m <;> decide

/-- A non-VEX form stops at its opcode. -/
theorem stopsUnderLock_legacy {w : Nat} {m : Mode} {sse : Bool} {e : LegacyEnc} {d : BitVec w} {src : Rm w}
    (wf : legacyOk m sse e d src = true) (op : PackOp) (bytes : List Byte) :
    StopsUnderLock m e.prefixes (rexBytes d src e.rex ++ 0x0F :: op.byte :: bytes) := by
  simp only [legacyOk, Bool.and_eq_true] at wf
  obtain ⟨⟨-, rexFits⟩, -⟩ := wf
  obtain ⟨notRex, -, -⟩ := isRex_opcode m
  cases rex : e.rex with
  | none =>
    refine ⟨scanPrefixes_end (by decide), ?_⟩
    exact (decodeAfterPrefixes_of_not_rex notRex).trans (decodeOpcode_lock_legacy ..)
  | some spare =>
    obtain ⟨rfl, -⟩ : m = .m64 ∧ spareOk src spare = true := by simpa [rex, rexOk] using rexFits
    obtain ⟨notPrefix, isRexByte⟩ :=
      rexByte_kind spare.w (d.getLsbD 3) (rmX src || spare.x) (rmB src || spare.b)
    refine ⟨scanPrefixes_end notPrefix, ?_⟩
    simp only [rexBytes, List.cons_append, List.nil_append, decodeAfterPrefixes, isRexByte, if_true,
      decodeOpcode_lock_legacy]

/-- Bytes after a C4H or C5H that is VEX in the mode are #UD when 66H, LOCK or REX precedes. -/
theorem decodeVex_blocked {m : Mode} {ps : List LegacyPrefix} {three : Bool} {b : Byte} {bytes : List Byte}
    (vexByte : isVexByte m b = true) : decodeVex m ps true three (b :: bytes) = .ud := by
  cases m with
  | m64 => simp [decodeVex]
  | m32 => simp [decodeVex, vexByte]

/-- Clear bits R and `vvvv[3]` are stored as 11 in the VEX byte after C5H. -/
theorem vex2_byteTop : ∀ (v : BitVec 4) (l : Bool), v.getLsbD 3 = false →
    byteTop (BitVec.ofBool true ++ ~~~v ++ BitVec.ofBool l ++ 1#2) = 3 := by decide

/-- Clear bits R and X are stored as 11 in the first of two VEX bytes after C4H. -/
theorem vex3_byteTop : ∀ b : Bool,
    byteTop (BitVec.ofBool true ++ BitVec.ofBool true ++ BitVec.ofBool b ++ 1#5) = 3 := by decide

/-- The VEX bytes of a well-formed form are read as VEX in its mode. -/
theorem vexBytes_isVex {m : Mode} {e : VexEnc} {d v : BitVec 4} {src : Rm 4} (wf : vexOk m e d v src = true)
    (l : Bool) : ∃ (three : Bool) (b : Byte) (more : List Byte),
      vexBytes d v src l e.vex3 = (if three then 0xC4 else 0xC5) :: b :: more ∧ isVexByte m b = true := by
  cases m with
  | m64 =>
    cases e.vex3 with
    | none => exact ⟨false, _, _, rfl, rfl⟩
    | some spare => exact ⟨true, _, _, rfl, rfl⟩
  | m32 =>
    obtain ⟨low, lowV⟩ := Machine.lowRegisters_of_vexOk wf
    obtain ⟨⟨lowD, lowX⟩, lowB⟩ : (d.getLsbD 3 = false ∧ rmX src = false) ∧ rmB src = false := by
      simpa only [lowRegisters, Bool.and_eq_true, Bool.not_eq_true'] using low
    simp only [vexOk, Bool.and_eq_true] at wf
    obtain ⟨⟨-, prefixOk⟩, -⟩ := wf
    cases spelled : e.vex3 with
    | none =>
      refine ⟨false, _, _, rfl, decide_eq_true ?_⟩
      rw [lowD]
      exact vex2_byteTop v l lowV
    | some spare =>
      have spareX : spare.x = false := by
        simp only [spelled, vexPrefixOk, reduceCtorEq, decide_false, Bool.false_or, Bool.and_eq_true,
          Bool.not_eq_true'] at prefixOk
        obtain ⟨-, ⟨-, x⟩, -⟩ := prefixOk
        exact x
      refine ⟨true, _, _, rfl, decide_eq_true ?_⟩
      rw [lowD, lowX, spareX]
      exact vex3_byteTop _

/-- A VEX form stops at its VEX bytes. -/
theorem stopsUnderLock_vex {m : Mode} {e : VexEnc} {d v : BitVec 4} {src : Rm 4} (wf : vexOk m e d v src = true)
    (l : Bool) (bytes : List Byte) : StopsUnderLock m e.prefixes (vexBytes d v src l e.vex3 ++ bytes) := by
  obtain ⟨three, b, more, spelled, vexByte⟩ := vexBytes_isVex wf l
  obtain ⟨-, notRex3, notRex2⟩ := isRex_opcode m
  rw [spelled]
  cases three with
  | true =>
    refine ⟨scanPrefixes_end (by decide), (decodeAfterPrefixes_of_not_rex notRex3).trans ?_⟩
    simp [decodeOpcode, decodeVex_blocked vexByte]
  | false =>
    refine ⟨scanPrefixes_end (by decide), (decodeAfterPrefixes_of_not_rex notRex2).trans ?_⟩
    simp [decodeOpcode, decodeVex_blocked vexByte]

/-! ## The eight forms -/

theorem encodeLegacy_lock {w : Nat} {m : Mode} {sse : Bool} {e : LegacyEnc} {d : BitVec w} {src : Rm w}
    (wf : legacyOk m sse e d src = true) (op : PackOp) :
    prefixesDistinct e.prefixes = true ∧
      ∃ body, encodeLegacy op e d src = e.prefixes.map LegacyPrefix.byte ++ body ∧
        StopsUnderLock m e.prefixes body := by
  refine ⟨?_, _, ?_, stopsUnderLock_legacy wf op (encodeRm (d.setWidth 3) src)⟩
  · simp only [legacyOk, Bool.and_eq_true] at wf
    obtain ⟨⟨⟨⟨distinct, -⟩, -⟩, -⟩, -⟩ := wf
    exact distinct
  · simp [encodeLegacy]

theorem encodeVex_lock {m : Mode} {e : VexEnc} {d v : BitVec 4} {src : Rm 4} (wf : vexOk m e d v src = true)
    (op : PackOp) (l : Bool) :
    prefixesDistinct e.prefixes = true ∧
      ∃ body, encodeVex op l e d v src = e.prefixes.map LegacyPrefix.byte ++ body ∧
        StopsUnderLock m e.prefixes body := by
  refine ⟨?_, _, ?_, stopsUnderLock_vex wf l (op.byte :: encodeRm (d.setWidth 3) src)⟩
  · simp only [vexOk, Bool.and_eq_true] at wf
    obtain ⟨⟨⟨⟨distinct, -⟩, -⟩, -⟩, -⟩ := wf
    exact distinct
  · simp [encodeVex]

end Sys2Proof

namespace Sys2Proof.Machine

/-- A well-formed instruction is its distinct prefixes and a rest that stops under LOCK. -/
theorem encode_lock {m : Mode} {i : Instr} (wf : wellFormed m i = true) :
    prefixesDistinct (legacyPrefixes i) = true ∧
      ∃ body, encode i = (legacyPrefixes i).map LegacyPrefix.byte ++ body ∧
        StopsUnderLock m (legacyPrefixes i) body := by
  cases i with
  | packsswbMm e d src | packsswbXmm e d src => exact encodeLegacy_lock wf .wb
  | packssdwMm e d src | packssdwXmm e d src => exact encodeLegacy_lock wf .dw
  | vpacksswbXmm e d v src => exact encodeVex_lock wf .wb false
  | vpackssdwXmm e d v src => exact encodeVex_lock wf .dw false
  | vpacksswbYmm e d v src => exact encodeVex_lock wf .wb true
  | vpackssdwYmm e d v src => exact encodeVex_lock wf .dw true

/-- Settles O5: the place of the LOCK byte splits the prefixes, and what follows them stops under it. -/
theorem lockIsUndefined : Obligations.LockIsUndefined := by
  intro m i k wf hk
  obtain ⟨distinct, body, encoded, stops⟩ := encode_lock wf
  have ud := stops.decode_eq_ud distinct k
  rwa [List.map_take, List.map_drop, ← List.take_append_of_le_length (l₂ := body) (by simpa using hk),
    ← List.drop_append_of_le_length (by simpa using hk), ← encoded] at ud

end Sys2Proof.Machine

/-!
PROOFS (spec/20_memory.md, rules R57 and R79): the fetch of an instruction whose bytes end too early. First how many
bytes the decoder can have seen when it asks for more, part by part; then what the fetch answers for bytes that stand
at `pc` and for the byte after them.
-/

namespace Sys2Proof

/-! ## How many bytes the decoder reads before it knows the answer (rules R63 and R79) -/

/-- The three kinds of legacy prefixes (rule R86). -/
def prefixKind : LegacyPrefix → Fin 3
  | .opSize => 0
  | .addrSize => 1
  | .seg _ => 2

theorem sameKind_iff (p q : LegacyPrefix) : sameKind p q = true ↔ prefixKind p = prefixKind q := by
  cases p <;> cases q <;> simp [sameKind, prefixKind]

/-- Distinct prefixes are at most one of each kind. -/
theorem length_le_of_prefixesDistinct {ps : List LegacyPrefix} (h : prefixesDistinct ps = true) : ps.length ≤ 3 := by
  have kinds : (ps.map prefixKind).Nodup := by
    induction ps with
    | nil => simp
    | cons p ps ih =>
      simp only [prefixesDistinct, Bool.and_eq_true, Bool.not_eq_true', List.any_eq_false, sameKind_iff] at h
      obtain ⟨fresh, rest⟩ := h
      rw [List.map_cons, List.nodup_cons]
      refine ⟨fun again => ?_, ih rest⟩
      obtain ⟨q, hq, same⟩ := List.mem_map.1 again
      exact fresh q hq same.symm
  simpa using kinds.length_le_card

/-- The loop over the prefixes that asks for more has seen nothing but prefixes and a LOCK byte. -/
theorem length_of_scanPrefixes_more {seen : List LegacyPrefix} {lock : Bool} {bytes : List Byte}
    (distinct : prefixesDistinct seen = true) (h : scanPrefixes seen lock bytes = .more) :
    seen.length + lock.toNat + bytes.length ≤ 4 := by
  induction bytes generalizing seen lock with
  | nil =>
    have prefixes := length_le_of_prefixesDistinct distinct
    have one := Bool.toNat_le lock
    rw [List.length_nil]
    omega
  | cons b bytes ih =>
    simp only [scanPrefixes] at h
    split at h
    · cases h
    · cases h
    · split_ifs at h with locked
      obtain rfl : lock = false := by simpa using locked
      have bound := ih distinct h
      simp only [Bool.toNat_true, Bool.toNat_false, List.length_cons] at bound ⊢
      omega
    · next p isPrefix =>
      split_ifs at h with repeated
      have bound := ih (by simp [prefixesDistinct_append, distinct, repeated]) h
      simp only [List.length_append, List.length_cons, List.length_nil] at bound ⊢
      omega

/-- The loop takes one byte for each of the prefixes that it records and for the LOCK byte. -/
theorem length_of_scanPrefixes_done {seen ps : List LegacyPrefix} {lock lock' : Bool} {bytes rest : List Byte}
    (h : scanPrefixes seen lock bytes = .done ps lock' rest) :
    seen.length + lock.toNat + bytes.length = ps.length + lock'.toNat + rest.length := by
  induction bytes generalizing seen lock with
  | nil => simp [scanPrefixes] at h
  | cons b bytes ih =>
    simp only [scanPrefixes] at h
    split at h
    · obtain ⟨rfl, rfl, rfl⟩ : seen = ps ∧ lock = lock' ∧ b :: bytes = rest := by simpa using h
      rfl
    · cases h
    · split_ifs at h with locked
      obtain rfl : lock = false := by simpa using locked
      have counted := ih h
      simp only [Bool.toNat_true, Bool.toNat_false, List.length_cons] at counted ⊢
      omega
    · split_ifs at h with repeated
      have counted := ih h
      simp only [List.length_append, List.length_cons, List.length_nil] at counted ⊢
      omega

theorem length_of_decodeDisp32_none {bytes : List Byte} (h : decodeDisp32 bytes = none) : bytes.length ≤ 3 := by
  match bytes with
  | [] | [_] | [_, _] | [_, _, _] => simp
  | _ :: _ :: _ :: _ :: _ => simp [decodeDisp32] at h

theorem length_of_decodeDisp_none {mod : BitVec 2} {bytes : List Byte} (h : decodeDisp mod bytes = none) :
    bytes.length ≤ 3 := by
  unfold decodeDisp at h
  split_ifs at h with mod0 mod1
  · cases bytes with
    | nil => simp
    | cons b tail => simp at h
  · cases disp : decodeDisp32 bytes with
    | none => exact length_of_decodeDisp32_none disp
    | some read => simp [disp] at h

theorem length_of_decodeMem_none {x b : Bool} {mod : BitVec 2} {rm : BitVec 3} {bytes : List Byte}
    (h : decodeMem x b mod rm bytes = none) : bytes.length ≤ 4 := by
  unfold decodeMem at h
  split_ifs at h with sib disp32
  · cases bytes with
    | nil => simp
    | cons s tail =>
      have tailShort : tail.length ≤ 3 := by
        simp only at h
        split_ifs at h with noBase
        · split at h
          · next short => exact length_of_decodeDisp32_none short
          · cases h
        · split at h
          · next short => exact length_of_decodeDisp_none short
          · cases h
      exact Nat.succ_le_succ tailShort
  · split at h
    · next short => exact Nat.le_succ_of_le (length_of_decodeDisp32_none short)
    · cases h
  · split at h
    · next short => exact Nat.le_succ_of_le (length_of_decodeDisp_none short)
    · cases h

theorem length_of_decodeRm_none {w : Nat} {x b : Bool} {mod : BitVec 2} {rm : BitVec 3} {bytes : List Byte}
    (h : decodeRm w x b mod rm bytes = none) : bytes.length ≤ 4 := by
  unfold decodeRm at h
  split_ifs at h with isReg
  split at h
  · next short => exact length_of_decodeMem_none short
  · cases h

section more

variable {m : Mode} {ps : List LegacyPrefix} {lock rex : Bool} {e : ExtBits} {bytes : List Byte}

theorem length_of_decodeLegacyOperands_more {op : PackOp} (h : decodeLegacyOperands m ps rex e op bytes = .more) :
    bytes.length ≤ 5 := by
  cases bytes with
  | nil => simp
  | cons modrm tail =>
    have tailShort : tail.length ≤ 4 := by
      simp only [decodeLegacyOperands] at h
      split_ifs at h
      all_goals
        split at h
        · next short => exact length_of_decodeRm_none short
        · cases h
    exact Nat.succ_le_succ tailShort

theorem length_of_decodeLegacy_more (h : decodeLegacy m ps lock rex e bytes = .more) : bytes.length ≤ 6 := by
  cases bytes with
  | nil => simp
  | cons ob tail =>
    simp only [decodeLegacy] at h
    split at h
    · cases h
    · split_ifs at h
      exact Nat.succ_le_succ (length_of_decodeLegacyOperands_more h)

theorem length_of_decodeVexOperands_more {three l : Bool} {v : BitVec 4}
    (h : decodeVexOperands m ps three e v l bytes = .more) : bytes.length ≤ 6 := by
  match bytes with
  | [] | [_] => simp
  | ob :: modrm :: tail =>
    have tailShort : tail.length ≤ 4 := by
      simp only [decodeVexOperands] at h
      split at h
      · cases h
      · split_ifs at h
        all_goals
          split at h
          · next short => exact length_of_decodeRm_none short
          · cases h
    exact Nat.succ_le_succ (Nat.succ_le_succ tailShort)

theorem length_of_decodeVex2_more (h : decodeVex2 m ps bytes = .more) : bytes.length ≤ 7 := by
  cases bytes with
  | nil => simp
  | cons b1 tail =>
    simp only [decodeVex2] at h
    split_ifs at h
    exact Nat.succ_le_succ (length_of_decodeVexOperands_more h)

theorem length_of_decodeVex3_more (h : decodeVex3 m ps bytes = .more) : bytes.length ≤ 8 := by
  match bytes with
  | [] | [_] => simp
  | b1 :: b2 :: tail =>
    simp only [decodeVex3] at h
    split_ifs at h
    exact Nat.succ_le_succ (Nat.succ_le_succ (length_of_decodeVexOperands_more h))

theorem length_of_decodeVex_more {blocked three : Bool} (h : decodeVex m ps blocked three bytes = .more) :
    bytes.length ≤ 8 := by
  unfold decodeVex at h
  split at h
  · simp
  · split_ifs at h
    · exact length_of_decodeVex3_more h
    · exact Nat.le_succ_of_le (length_of_decodeVex2_more h)
  · split_ifs at h
    · exact length_of_decodeVex3_more h
    · exact Nat.le_succ_of_le (length_of_decodeVex2_more h)

theorem length_of_decodeOpcode_more (h : decodeOpcode m ps lock rex e bytes = .more) : bytes.length ≤ 9 := by
  cases bytes with
  | nil => simp
  | cons b tail =>
    have tailShort : tail.length ≤ 8 := by
      simp only [decodeOpcode] at h
      split_ifs at h
      · exact Nat.le_trans (length_of_decodeLegacy_more h) (by decide)
      · exact length_of_decodeVex_more h
      · exact length_of_decodeVex_more h
    exact Nat.succ_le_succ tailShort

theorem length_of_decodeAfterPrefixes_more (h : decodeAfterPrefixes m ps lock bytes = .more) :
    bytes.length ≤ 10 := by
  cases bytes with
  | nil => simp
  | cons b tail =>
    simp only [decodeAfterPrefixes] at h
    split_ifs at h
    · exact Nat.succ_le_succ (length_of_decodeOpcode_more h)
    · exact Nat.le_succ_of_le (length_of_decodeOpcode_more h)

/-- The decoder never asks for a byte past the fifteenth (rule R79). -/
theorem length_of_decode_more (h : decode m bytes = .more) : bytes.length < maxInstrBytes := by
  unfold decode at h
  split at h
  · next scanned =>
    have short := length_of_scanPrefixes_more rfl scanned
    simp only [maxInstrBytes]
    omega
  · cases h
  · next ps lock rest scanned =>
    obtain ⟨distinct, -⟩ := scanPrefixes_done rfl scanned
    have prefixes := length_le_of_prefixesDistinct distinct
    have counted := length_of_scanPrefixes_done scanned
    have body := length_of_decodeAfterPrefixes_more h
    have one := Bool.toNat_le lock
    simp only [List.length_nil, Bool.toNat_false] at counted
    simp only [maxInstrBytes]
    omega

end more

end Sys2Proof

namespace Sys2Proof.Machine

/-! ## What the fetch answers (rule R57) -/

section fetch

variable {s : State} {m : Mode} {k : Nat}

/-- Byte `k` may be asked of `Access`: canonical in `M64`, not past the top in `M32`. -/
theorem fetchBlocked_eq_none_iff : fetchBlocked s m k = none ↔
    (m = .m64 → canonical s.laBits ((s.pc m).toNat + k) = true) ∧
      (m = .m32 → (s.pc m).toNat + k ≤ 0xFFFFFFFF) := by
  cases m with
  | m64 => simp [fetchBlocked]
  | m32 =>
    have top : (s.pc .m32).toNat + k < 2 ^ 32 ↔ (s.pc .m32).toNat + k ≤ 0xFFFFFFFF := by omega
    simp only [fetchBlocked, top, ite_eq_left_iff, reduceCtorEq, imp_false, not_not, false_implies, true_and,
      forall_const]

/-- A byte that stands at `pc` is fetched. -/
theorem fetchByte_of_codeAt {bs : List Byte} (code : CodeAt s m bs) (hk : k < bs.length) :
    fetchByte s m k = .ok bs[k] := by
  obtain ⟨canon, top, undenied, mapped⟩ := code k hk
  have answer : access s m .fetch (byteAddr m (s.pc m) k) 1 = .ok [bs[k]] :=
    access_eq_ok_iff.2 ⟨rfl, undenied, fun j hj => by
      obtain rfl : j = 0 := by omega
      simp [byteAddr_zero, mapped, hk]⟩
  simp only [fetchByte, fetchBlocked_eq_none_iff.2 ⟨canon, top⟩, answer, List.headD_cons]

/-- The check that blocks a byte stops its fetch. -/
theorem fetchByte_blocked {e : Stop} (h : fetchBlocked s m k = some e) : fetchByte s m k = .error e := by
  simp only [fetchByte, h]

/-- A page fault of `Access` stops the fetch of a byte. -/
theorem fetchByte_pageFault {code : BitVec 32} {addr : Quad} (unblocked : fetchBlocked s m k = none)
    (fault : access s m .fetch (byteAddr m (s.pc m) k) 1 = .error (code, addr)) :
    fetchByte s m k = .error (.raise (.pf code addr)) := by
  simp only [fetchByte, unblocked, fault]

/-- The fetch goes through bytes that can be had one by one. -/
theorem fetchBytes_append {bs : List Byte} (fetched : ∀ j (hj : j < bs.length), fetchByte s m (k + j) = .ok bs[j])
    (n : Nat) : fetchBytes s m k (bs.length + n) =
      (bs ++ (fetchBytes s m (k + bs.length) n).1, (fetchBytes s m (k + bs.length) n).2) := by
  induction bs generalizing k with
  | nil => simp
  | cons b bs ih =>
    have first : fetchByte s m k = .ok b := fetched 0 (by simp)
    have later := ih (k := k + 1) fun j hj => by
      rw [Nat.add_assoc, Nat.add_comm 1]
      exact fetched (j + 1) (Nat.succ_lt_succ hj)
    rw [List.length_cons, show bs.length + 1 + n = bs.length + n + 1 by omega,
      show k + (bs.length + 1) = k + 1 + bs.length by omega]
    simp only [fetchBytes, first, later, List.cons_append]

/-- The fetch stops at the first byte that cannot be had. -/
theorem fetchBytes_stop {e : Stop} (h : fetchByte s m k = .error e) (n : Nat) :
    fetchBytes s m k (n + 1) = ([], some e) := by
  simp only [fetchBytes, h]

/-- When the bytes at `pc` are too few for the decoder, the step stops as the fetch of the next byte does. -/
theorem step_of_fetchByte_error {bs : List Byte} {e : Stop} (mode : s.runMode = .ok m) (code : CodeAt s m bs)
    (more : decode m bs = .more) (stop : fetchByte s m bs.length = .error e) : step s = finish s (.error e) := by
  obtain ⟨n, hn⟩ : ∃ n, maxInstrBytes = bs.length + (n + 1) :=
    ⟨maxInstrBytes - bs.length - 1, by have := length_of_decode_more more; omega⟩
  have fetched : fetchBytes s m 0 maxInstrBytes = (bs, some e) := by
    rw [hn, fetchBytes_append (fun j hj => by rw [Nat.zero_add]; exact fetchByte_of_codeAt code hj), Nat.zero_add,
      fetchBytes_stop stop, List.append_nil]
  simp only [step, mode, fetchDecode, fetched, more]

end fetch

/-- Settles O59: the four ways in which the byte after those at `pc` cannot be had. -/
theorem fetchStopsAtFirstMissingByte : Obligations.FetchStopsAtFirstMissingByte := by
  intro s m bs mode code more
  refine ⟨?_, ?_, fun canon top => ⟨fun x listed only => ?_, fun undenied unmapped => ?_⟩⟩
  · rintro rfl notCanonical
    exact step_of_fetchByte_error mode code more
      (fetchByte_blocked (e := .raise .gp) (by simp [fetchBlocked, notCanonical]))
  · rintro rfl past
    exact step_of_fetchByte_error mode code more
      (fetchByte_blocked (e := .refuse .fetchPastTop) (if_neg (by omega)))
  · exact step_of_fetchByte_error mode code more
      (fetchByte_pageFault (fetchBlocked_eq_none_iff.2 ⟨canon, top⟩) (access_denied listed only))
  · have fault := access_unmapped (k := 0) (by decide) undenied (by simp) (by rwa [byteAddr_zero])
    rw [byteAddr_zero] at fault
    exact step_of_fetchByte_error mode code more
      (fetchByte_pageFault (fetchBlocked_eq_none_iff.2 ⟨canon, top⟩) fault)

end Sys2Proof.Machine

/-!
PROOFS (spec/30_encoding.md): the encoder and the decoder undo each other. The decoder is run on what the encoder
writes, part by part in the order of the bytes: prefixes, REX or VEX bytes, opcode, operand bytes.
-/

namespace Sys2Proof

/-! ## The legacy prefixes and the byte after them (rules R63 and R86) -/

/-- After distinct prefixes, with or without a LOCK byte among them, the loop ends before a byte that is none. -/
theorem scanPrefixes_prefixBytes {ps : List LegacyPrefix} {b : Byte} (distinct : prefixesDistinct ps = true)
    (notPrefix : prefixOfByte b = none) (lock : Option Nat) (bytes : List Byte) :
    scanPrefixes [] false (Machine.prefixBytes ps lock ++ b :: bytes) = .done ps lock.isSome (b :: bytes) := by
  cases lock with
  | none =>
    rw [Machine.prefixBytes, scanPrefixes_prefixes (by rwa [List.nil_append]), List.nil_append,
      scanPrefixes_end notPrefix, Option.isSome_none]
  | some k =>
    have split : prefixesDistinct (ps.take k ++ ps.drop k) = true := by rwa [List.take_append_drop]
    rw [Machine.prefixBytes, List.append_assoc, List.cons_append,
      scanPrefixes_prefixes (prefixesDistinct_of_append split), List.nil_append, scanPrefixes_lock,
      scanPrefixes_prefixes split, List.take_append_drop, scanPrefixes_end notPrefix, Option.isSome_some]

theorem decode_prefixBytes {ps : List LegacyPrefix} {b : Byte} (distinct : prefixesDistinct ps = true)
    (notPrefix : prefixOfByte b = none) (m : Mode) (lock : Option Nat) (bytes : List Byte) :
    decode m (Machine.prefixBytes ps lock ++ b :: bytes) = decodeAfterPrefixes m ps lock.isSome (b :: bytes) := by
  simp only [decode, scanPrefixes_prefixBytes distinct notPrefix]

/-- The prefixes of an encoding have no LOCK byte among them. -/
theorem decode_prefixes {ps : List LegacyPrefix} {b : Byte} (distinct : prefixesDistinct ps = true)
    (notPrefix : prefixOfByte b = none) (m : Mode) (bytes : List Byte) :
    decode m (ps.map LegacyPrefix.byte ++ b :: bytes) = decodeAfterPrefixes m ps false (b :: bytes) :=
  decode_prefixBytes distinct notPrefix m none bytes

/-! ## The r/m operand and its bytes (rules R70 to R76) -/

/-- The `mod` field of an operand. -/
def rmMod {w : Nat} : Rm w → BitVec 2
  | .reg _ => 3
  | .mem (.base _ disp) => disp.mod
  | .mem (.disp32 _) => 0
  | .mem (.sib _ _ _ disp) => disp.mod
  | .mem (.sibNoBase _ _ _) => 0

/-- The `rm` field of an operand. -/
def rmField {w : Nat} : Rm w → BitVec 3
  | .reg r => r.setWidth 3
  | .mem (.base b _) => b.setWidth 3
  | .mem (.disp32 _) => 5
  | .mem (.sib _ _ _ _) => 4
  | .mem (.sibNoBase _ _ _) => 4

/-- The bytes of an operand after the ModRM byte. -/
def rmTail {w : Nat} : Rm w → List Byte
  | .reg _ => []
  | .mem (.base _ disp) => disp.bytes
  | .mem (.disp32 d) => disp32Bytes d
  | .mem (.sib scale index base disp) => fieldByte scale (index.setWidth 3) (base.setWidth 3) :: disp.bytes
  | .mem (.sibNoBase scale index d) => fieldByte scale (index.setWidth 3) 5 :: disp32Bytes d

theorem encodeRm_eq_cons {w : Nat} (reg : BitVec 3) (src : Rm w) :
    encodeRm reg src = fieldByte (rmMod src) reg (rmField src) :: rmTail src := by
  rcases src with r | (⟨b, disp⟩ | d | ⟨scale, index, base, disp⟩ | ⟨scale, index, d⟩) <;> rfl

theorem Disp.mod_ne_three (disp : Disp) : disp.mod ≠ 3 := by cases disp <;> simp [Disp.mod]

theorem Disp.mod_eq_zero_iff (disp : Disp) : disp.mod = 0 ↔ disp = .none := by cases disp <;> simp [Disp.mod]

theorem rmMod_mem_ne_three {w : Nat} (mo : MemOperand) : rmMod (.mem mo : Rm w) ≠ 3 := by
  rcases mo with ⟨b, disp⟩ | d | ⟨scale, index, base, disp⟩ | ⟨scale, index, d⟩
  · exact disp.mod_ne_three
  · simp [rmMod]
  · exact disp.mod_ne_three
  · simp [rmMod]

/-- The extension bits `x` and `b` are those of the operand's register numbers, where it takes them. -/
abbrev ExtFor {w : Nat} (src : Rm w) (x b : Bool) : Prop :=
  (usesX src = true → x = rmX src) ∧ (usesB src = true → b = rmB src)

/-- A base register without SIB is not one whose field selects SIB or a lone disp32 (rule R73). -/
theorem baseOk_iff (r : BitVec 4) (disp : Disp) :
    baseOk r disp = true ↔ r.setWidth 3 ≠ 4 ∧ ¬(r.setWidth 3 = 5 ∧ disp = .none) := by
  simp [baseOk, imp_iff_not_or]

/-- A base register in a SIB byte is not one whose field selects no base (rule R76). -/
theorem sibBaseOk_iff (r : BitVec 4) (disp : Disp) :
    sibBaseOk r disp = true ↔ ¬(r.setWidth 3 = 5 ∧ disp = .none) := by
  simp [sibBaseOk, imp_iff_not_or]

theorem decodeMem_rmTail {w : Nat} {mo : MemOperand} {x b : Bool} (shape : memOk mo = true)
    (ext : ExtFor (.mem mo : Rm w) x b) (rest : List Byte) :
    decodeMem x b (rmMod (.mem mo : Rm w)) (rmField (.mem mo : Rm w)) (rmTail (.mem mo : Rm w) ++ rest) =
      some (mo, rest) := by
  obtain ⟨extX, extB⟩ := ext
  rcases mo with ⟨r, disp⟩ | d | ⟨scale, index, base, disp⟩ | ⟨scale, index, d⟩
  · obtain ⟨notSib, based⟩ := (baseOk_iff r disp).1 shape
    rw [extB rfl]
    simp only [decodeMem, rmMod, rmField, rmTail, rmB, notSib, based, Disp.mod_eq_zero_iff, decodeDisp_bytes,
      regNumber_parts, if_false]
  · simp [decodeMem, rmMod, rmField, rmTail, decodeDisp32_bytes]
  · have based := (sibBaseOk_iff base disp).1 shape
    rw [extX rfl, extB rfl]
    simp only [decodeMem, rmMod, rmField, rmTail, rmX, rmB, List.cons_append, byteTop_fieldByte, byteMid_fieldByte,
      byteLow_fieldByte, based, Disp.mod_eq_zero_iff, decodeDisp_bytes, regNumber_parts, if_true, if_false]
  · rw [extX rfl]
    simp only [decodeMem, rmMod, rmField, rmTail, rmX, List.cons_append, byteTop_fieldByte, byteMid_fieldByte,
      byteLow_fieldByte, decodeDisp32_bytes, regNumber_parts, if_true, and_self]

/-- A number of the file is its extension bit and its field; an MMX number has no extension bit. -/
abbrev FileNumbers (w : Nat) : Prop := ∀ r : BitVec w, regNumber w (r.getLsbD 3) (r.setWidth 3) = r

theorem fileNumbers_mmx : FileNumbers 3 := by unfold FileNumbers; decide

theorem decodeRm_rmTail {w : Nat} {src : Rm w} {x b : Bool} (file : FileNumbers w) (shape : rmOk src = true)
    (ext : ExtFor src x b) (rest : List Byte) :
    decodeRm w x b (rmMod src) (rmField src) (rmTail src ++ rest) = some (src, rest) := by
  cases src with
  | reg r =>
    obtain ⟨-, extB⟩ := ext
    rw [extB rfl]
    simp only [decodeRm, rmMod, rmField, rmTail, rmB, file r, List.nil_append, if_true]
  | mem mo => simp only [decodeRm, rmMod_mem_ne_three, if_false, decodeMem_rmTail shape ext]

/-- A well-formed operand does not use 16-bit addressing (rule R78). -/
theorem address16_rmMod {w : Nat} {m : Mode} {ps : List LegacyPrefix} {src : Rm w}
    (h : addressOk m ps src = true) : address16 m ps (rmMod src) = false := by
  cases src with
  | reg r => simp [address16, rmMod]
  | mem mo =>
    have notReg : decide (rmMod (.mem mo : Rm w) ≠ 3) = true := decide_eq_true (rmMod_mem_ne_three mo)
    rwa [addressOk, Bool.not_eq_true', ← Bool.and_true (decide (m = .m32)), ← notReg] at h

/-! ## Extension bits: what the encoder writes is what the operands take and the spare bits -/

/-- The bits that the encoder writes into a REX byte or into three VEX bytes. -/
def writtenBits {w w' : Nat} (d : BitVec w) (src : Rm w') (s : SpareBits) : ExtBits :=
  ⟨s.w, d.getLsbD 3, rmX src || s.x, rmB src || s.b⟩

/-- An operand needs no bit that it does not take. -/
theorem rm_ext_of_unused {w : Nat} (src : Rm w) :
    (usesX src = false → rmX src = false) ∧ (usesB src = false → rmB src = false) := by
  rcases src with r | (⟨b, disp⟩ | d | ⟨scale, index, base, disp⟩ | ⟨scale, index, d⟩) <;>
    simp [usesX, usesB, rmX, rmB]

theorem extFor_writtenBits {w w' : Nat} {d : BitVec w} {src : Rm w'} {s : SpareBits} (spare : spareOk src s = true) :
    ExtFor src (writtenBits d src s).x (writtenBits d src s).b := by
  obtain ⟨spareX, spareB⟩ : (usesX src = true → s.x = false) ∧ (usesB src = true → s.b = false) := by
    simpa [spareOk, imp_iff_not_or] using spare
  exact ⟨fun uses => by simp [writtenBits, spareX uses], fun uses => by simp [writtenBits, spareB uses]⟩

/-- The spare bits are read back. -/
theorem spareOf_writtenBits {w w' : Nat} {d : BitVec w} {src : Rm w'} {s : SpareBits} (spare : spareOk src s = true) :
    spareOf src (writtenBits d src s) = s := by
  obtain ⟨w, x, b⟩ := s
  obtain ⟨unusedX, unusedB⟩ := rm_ext_of_unused src
  simp only [spareOk, Bool.and_eq_true, Bool.not_eq_true', Bool.and_eq_false_imp] at spare
  simp only [spareOf, writtenBits, SpareBits.mk.injEq, true_and]
  constructor
  · cases uses : usesX src <;> simp_all
  · cases uses : usesB src <;> simp_all

/-- Low registers need no extension bits. -/
theorem extFor_low {w w' : Nat} {d : BitVec w} {src : Rm w'} (low : lowRegisters d src = true) :
    ExtFor src false false := by
  obtain ⟨⟨-, lowX⟩, lowB⟩ : (d.getLsbD 3 = false ∧ rmX src = false) ∧ rmB src = false := by
    simpa only [lowRegisters, Bool.and_eq_true, Bool.not_eq_true'] using low
  exact ⟨fun _ => lowX.symm, fun _ => lowB.symm⟩

/-! ## Non-VEX forms (rules R63 and R64) -/

/-- The bits of a REX byte are read back. -/
theorem rexByte_read : ∀ w r x b : Bool,
    rexBits (4#4 ++ BitVec.ofBool w ++ BitVec.ofBool r ++ BitVec.ofBool x ++ BitVec.ofBool b) = ⟨w, r, x, b⟩ := by
  decide

/-- An admitted REX byte, if there is one, and the byte 0FH lead to a non-VEX form. -/
theorem decode_rexPrefix {m : Mode} {ps : List LegacyPrefix} {rex : Bool} {e : ExtBits}
    (distinct : prefixesDistinct ps = true) (admitted : RexAdmitted m rex e) (bytes : List Byte) :
    decode m (ps.map LegacyPrefix.byte ++ (rexPrefix rex e ++ 0x0F :: bytes)) =
      decodeLegacy m ps false rex e bytes := by
  obtain ⟨inM64, without⟩ := admitted
  cases rex with
  | true =>
    obtain rfl := inM64 rfl
    obtain ⟨notPrefix, isRexByte⟩ := rexByte_kind e.w e.r e.x e.b
    simp only [rexPrefix, if_true, List.cons_append, List.nil_append, decode_prefixes distinct notPrefix,
      decodeAfterPrefixes, isRexByte, rexByte_read, decodeOpcode]
  | false =>
    obtain rfl := without rfl
    have notPrefix : prefixOfByte 0x0F = none := by decide
    obtain ⟨notRex, -, -⟩ := isRex_opcode m
    simp only [rexPrefix, Bool.false_eq_true, if_false, List.nil_append, decode_prefixes distinct notPrefix,
      decodeAfterPrefixes_of_not_rex notRex, decodeOpcode, if_true]

/-- How the decoder records what it read with the bits `e`: the destination and the operand of a form take some of
them, and `spare` holds the others, if there is a REX byte or a third VEX byte for them. -/
structure RecordedAs {w : Nat} (rex : Bool) (e : ExtBits) (spare : Option SpareBits) (d : BitVec w) (src : Rm w) :
    Prop where
  dest : regNumber w e.r (d.setWidth 3) = d
  ext : ExtFor src e.x e.b
  recorded : recordedSpare rex src e = spare

/-- The bits that the encoder writes into a REX byte, if there is one. -/
def rexWritten {w : Nat} (d : BitVec w) (src : Rm w) : Option SpareBits → ExtBits
  | none => noExt
  | some s => writtenBits d src s

theorem rexBytes_eq_rexPrefix {w : Nat} (d : BitVec w) (src : Rm w) (rex : Option SpareBits) :
    rexBytes d src rex = rexPrefix rex.isSome (rexWritten d src rex) := by
  cases rex <;> rfl

theorem rexAdmitted_of_rexOk {w : Nat} {m : Mode} {d : BitVec w} {src : Rm w} {rex : Option SpareBits}
    (h : rexOk m d src rex = true) : RexAdmitted m rex.isSome (rexWritten d src rex) := by
  cases rex with
  | none => exact ⟨by simp, fun _ => rfl⟩
  | some s =>
    obtain ⟨in64, -⟩ : m = .m64 ∧ spareOk src s = true := by simpa [rexOk] using h
    exact ⟨fun _ => in64, by simp⟩

theorem recordedAs_rexWritten {w : Nat} {m : Mode} {d : BitVec w} {src : Rm w} {rex : Option SpareBits}
    (file : FileNumbers w) (h : rexOk m d src rex = true) :
    RecordedAs rex.isSome (rexWritten d src rex) rex d src := by
  cases rex with
  | none =>
    have lowD : d.getLsbD 3 = false := by
      simp only [rexOk, lowRegisters, Bool.and_eq_true, Bool.not_eq_true'] at h
      obtain ⟨⟨low, -⟩, -⟩ := h
      exact low
    exact { dest := by simpa [rexWritten, noExt, lowD] using file d, ext := extFor_low h, recorded := rfl }
  | some s =>
    obtain ⟨-, spare⟩ : m = .m64 ∧ spareOk src s = true := by simpa [rexOk] using h
    exact
      { dest := file d
        ext := extFor_writtenBits spare
        recorded := congrArg some (spareOf_writtenBits spare) }

section operands

variable {m : Mode} {ps : List LegacyPrefix} {rex : Bool} {e : ExtBits} {spare : Option SpareBits} {op : PackOp}

/-- A legacy SSE form is read back: 66H is among its prefixes. -/
theorem decodeLegacyOperands_sse {d : BitVec 4} {src : Rm 4} (size : LegacyPrefix.opSize ∈ ps)
    (shape : rmOk src = true) (addr : addressOk m ps src = true) (read : RecordedAs rex e spare d src)
    (rest : List Byte) :
    decodeLegacyOperands m ps rex e op (encodeRm (d.setWidth 3) src ++ rest) =
      .form (sseInstr op ⟨ps, spare⟩ d src) rest := by
  obtain ⟨dest, ext, rfl⟩ := read
  simp only [encodeRm_eq_cons, List.cons_append, decodeLegacyOperands, byteTop_fieldByte, byteMid_fieldByte,
    byteLow_fieldByte, size, if_true, address16_rmMod addr, Bool.false_eq_true, if_false,
    decodeRm_rmTail regNumber_parts shape ext, dest, recordedSpare]

/-- An MMX form is read back: 66H is not among its prefixes, and no bit of the REX byte names a register above 7. -/
theorem decodeLegacyOperands_mmx {d : BitVec 3} {src : Rm 3} (size : LegacyPrefix.opSize ∉ ps)
    (shape : rmOk src = true) (addr : addressOk m ps src = true) (read : RecordedAs rex e spare d src)
    (noR : e.r = false) (rest : List Byte) :
    decodeLegacyOperands m ps rex e op (encodeRm (d.setWidth 3) src ++ rest) =
      .form (mmInstr op ⟨ps, spare⟩ d src) rest := by
  obtain ⟨dest, ext, rfl⟩ := read
  have ⟨_, extB⟩ := ext
  have noB : (e.b && decide (rmMod src = 3)) = false := by
    cases src with
    | reg r => simp [extB rfl, rmB]
    | mem mo => rw [decide_eq_false (rmMod_mem_ne_three mo), Bool.and_false]
  simp only [encodeRm_eq_cons, List.cons_append, decodeLegacyOperands, byteTop_fieldByte, byteMid_fieldByte,
    byteLow_fieldByte, size, noB, Bool.or_false, address16_rmMod addr, Bool.false_eq_true, if_false,
    decodeRm_rmTail fileNumbers_mmx shape ext, dest, recordedSpare]
  simp [noR]

end operands

/-- The checks of a well-formed non-VEX form, taken apart. -/
theorem legacyOk_iff {w : Nat} {m : Mode} {sse : Bool} {e : LegacyEnc} {d : BitVec w} {src : Rm w} :
    legacyOk m sse e d src = true ↔
      prefixesDistinct e.prefixes = true ∧ (LegacyPrefix.opSize ∈ e.prefixes ↔ sse = true) ∧ rmOk src = true ∧
        rexOk m d src e.rex = true ∧ addressOk m e.prefixes src = true := by
  cases sse <;> simp [legacyOk, and_assoc]

/-- The decoder gets to the operands of a well-formed non-VEX form. -/
theorem decode_encodeLegacy {w : Nat} {m : Mode} {sse : Bool} {e : LegacyEnc} {d : BitVec w} {src : Rm w}
    (wf : legacyOk m sse e d src = true) (op : PackOp) (rest : List Byte) :
    decode m (encodeLegacy op e d src ++ rest) =
      decodeLegacyOperands m e.prefixes e.rex.isSome (rexWritten d src e.rex) op
        (encodeRm (d.setWidth 3) src ++ rest) := by
  obtain ⟨distinct, -, -, rexFits, -⟩ := legacyOk_iff.1 wf
  have reached := decode_rexPrefix distinct (rexAdmitted_of_rexOk rexFits)
    (op.byte :: (encodeRm (d.setWidth 3) src ++ rest))
  simpa only [encodeLegacy, rexBytes_eq_rexPrefix, List.append_assoc, List.cons_append, List.nil_append, decodeLegacy,
    opOfByte_byte, Bool.false_eq_true, if_false] using reached

theorem decode_encode_sse {m : Mode} {e : LegacyEnc} {d : BitVec 4} {src : Rm 4}
    (wf : legacyOk m true e d src = true) (op : PackOp) (rest : List Byte) :
    decode m (encodeLegacy op e d src ++ rest) = .form (sseInstr op e d src) rest := by
  obtain ⟨-, size, shape, rexFits, addr⟩ := legacyOk_iff.1 wf
  rw [decode_encodeLegacy wf]
  exact decodeLegacyOperands_sse (size.2 rfl) shape addr (recordedAs_rexWritten regNumber_parts rexFits) rest

theorem decode_encode_mmx {m : Mode} {e : LegacyEnc} {d : BitVec 3} {src : Rm 3}
    (wf : legacyOk m false e d src = true) (op : PackOp) (rest : List Byte) :
    decode m (encodeLegacy op e d src ++ rest) = .form (mmInstr op e d src) rest := by
  obtain ⟨-, size, shape, rexFits, addr⟩ := legacyOk_iff.1 wf
  have noR : (rexWritten d src e.rex).r = false := by
    cases e.rex with
    | none => rfl
    | some s => exact BitVec.getLsbD_of_ge d 3 (by decide)
  rw [decode_encodeLegacy wf]
  exact decodeLegacyOperands_mmx (by simp [size]) shape addr (recordedAs_rexWritten fileNumbers_mmx rexFits) noR rest

/-! ## VEX forms (rules R66 to R69 and R81) -/

/-- The second of three VEX bytes is read back. -/
theorem vex3Second_read : ∀ r x b : Bool, ∀ byte,
    byte = BitVec.ofBool r ++ BitVec.ofBool x ++ BitVec.ofBool b ++ 1#5 →
      byte.getLsbD 7 = r ∧ byte.getLsbD 6 = x ∧ byte.getLsbD 5 = b ∧ byte.extractLsb' 0 5 = 1#5 := by
  rintro r x b _ rfl
  revert r x b
  decide

/-- The last VEX byte is read back. -/
theorem vexLast_read : ∀ (top : Bool) (v : BitVec 4) (l : Bool), ∀ byte,
    byte = BitVec.ofBool top ++ ~~~v ++ BitVec.ofBool l ++ 1#2 →
      byte.getLsbD 7 = top ∧ vexV byte = v ∧ byte.getLsbD 2 = l ∧ vexPpOk byte = true := by
  rintro top v l _ rfl
  revert top v l
  decide

theorem decodeOpcode_vex (m : Mode) (ps : List LegacyPrefix) (lock rex : Bool) (e : ExtBits) (three : Bool)
    (bytes : List Byte) :
    decodeOpcode m ps lock rex e ((if three then 0xC4 else 0xC5) :: bytes) =
      decodeVex m ps (decide (LegacyPrefix.opSize ∈ ps) || lock || rex) three bytes := by
  cases three with
  | true => rfl
  | false => rfl

/-- C4H or C5H after any distinct prefixes, with or without a LOCK byte among them. -/
theorem decode_vexEscape {ps : List LegacyPrefix} (distinct : prefixesDistinct ps = true) (m : Mode)
    (lock : Option Nat) (three : Bool) (bytes : List Byte) :
    decode m (Machine.prefixBytes ps lock ++ (if three then 0xC4 else 0xC5) :: bytes) =
      decodeVex m ps (decide (LegacyPrefix.opSize ∈ ps) || lock.isSome) three bytes := by
  have kind :
      prefixOfByte (if three then 0xC4 else 0xC5) = none ∧ isRex m (if three then 0xC4 else 0xC5) = false := by
    obtain ⟨-, notRex3, notRex2⟩ := isRex_opcode m
    cases three with
    | true => exact ⟨by decide, notRex3⟩
    | false => exact ⟨by decide, notRex2⟩
  obtain ⟨notPrefix, notRex⟩ := kind
  rw [decode_prefixBytes distinct notPrefix, decodeAfterPrefixes_of_not_rex notRex, decodeOpcode_vex, Bool.or_false]

/-- What is VEX in the mode is read as two or three VEX bytes, if no 66H, LOCK or REX precedes. -/
theorem decodeVex_admitted {m : Mode} {b : Byte} (vexByte : isVexByte m b = true) (ps : List LegacyPrefix)
    (three : Bool) (bytes : List Byte) :
    decodeVex m ps false three (b :: bytes) =
      if three then decodeVex3 m ps (b :: bytes) else decodeVex2 m ps (b :: bytes) := by
  cases m with
  | m64 => rfl
  | m32 => simp only [decodeVex, vexByte, if_true, Bool.false_eq_true, if_false]

/-- C4H or C5H after prefixes without 66H and LOCK. -/
theorem decode_vexAdmitted {m : Mode} {ps : List LegacyPrefix} {b : Byte} (distinct : prefixesDistinct ps = true)
    (size : LegacyPrefix.opSize ∉ ps) (vexByte : isVexByte m b = true) (three : Bool) (bytes : List Byte) :
    decode m (ps.map LegacyPrefix.byte ++ (if three then 0xC4 else 0xC5) :: b :: bytes) =
      if three then decodeVex3 m ps (b :: bytes) else decodeVex2 m ps (b :: bytes) := by
  have escape := decode_vexEscape distinct m none three (b :: bytes)
  rwa [decide_eq_false size, Option.isSome_none, Bool.or_false, decodeVex_admitted vexByte] at escape

/-- Two or three admitted VEX bytes lead to a VEX form. -/
theorem decode_vexPrefix {m : Mode} {ps : List LegacyPrefix} {three : Bool} {e : ExtBits} {v : BitVec 4}
    (distinct : prefixesDistinct ps = true) (size : LegacyPrefix.opSize ∉ ps) (admitted : VexAdmitted m three e v)
    (twoW : three = false → e.w = false) (l : Bool) (bytes : List Byte) :
    decode m (ps.map LegacyPrefix.byte ++ (vexPrefix three e v l ++ bytes)) =
      decodeVexOperands m ps three e v l bytes := by
  obtain ⟨two, in32⟩ := admitted
  obtain ⟨w, r, x, b⟩ := e
  cases three with
  | true =>
    obtain ⟨b1, hb1⟩ : ∃ b1, b1 = BitVec.ofBool (!r) ++ BitVec.ofBool (!x) ++ BitVec.ofBool (!b) ++ 1#5 := ⟨_, rfl⟩
    obtain ⟨b2, hb2⟩ : ∃ b2, b2 = BitVec.ofBool w ++ ~~~v ++ BitVec.ofBool l ++ 1#2 := ⟨_, rfl⟩
    obtain ⟨readR, readX, readB, map⟩ := vex3Second_read _ _ _ b1 hb1
    obtain ⟨readW, readV, readL, pp⟩ := vexLast_read _ _ _ b2 hb2
    have vexByte : isVexByte m b1 = true := by
      cases m with
      | m64 => rfl
      | m32 =>
        obtain ⟨rfl, rfl, -, -⟩ := in32 rfl
        exact decide_eq_true (hb1 ▸ vex3_byteTop _)
    have low : ¬(m = .m32 ∧ (b = true ∨ v.getLsbD 3 = true)) := by
      rintro ⟨rfl, high⟩
      obtain ⟨-, -, rfl, lowV⟩ := in32 rfl
      simp [lowV, -BitVec.getLsbD_eq_getElem] at high
    have escape := decode_vexAdmitted distinct size vexByte true (b2 :: bytes)
    simp only [vexPrefix, if_true, List.cons_append, List.nil_append, ← hb1, ← hb2] at escape ⊢
    simp only [escape, decodeVex3, readR, readX, readB, readW, readV, readL, map, pp, Bool.not_not, low, if_false,
      and_self, if_true]
  | false =>
    obtain ⟨rfl, rfl⟩ := two rfl
    obtain rfl := twoW rfl
    obtain ⟨b1, hb1⟩ : ∃ b1, b1 = BitVec.ofBool (!r) ++ ~~~v ++ BitVec.ofBool l ++ 1#2 := ⟨_, rfl⟩
    obtain ⟨readR, readV, readL, pp⟩ := vexLast_read _ _ _ b1 hb1
    have vexByte : isVexByte m b1 = true := by
      cases m with
      | m64 => rfl
      | m32 =>
        obtain ⟨rfl, -, -, lowV⟩ := in32 rfl
        exact decide_eq_true (hb1 ▸ vex2_byteTop v l lowV)
    have escape := decode_vexAdmitted distinct size vexByte false bytes
    simp only [vexPrefix, Bool.false_eq_true, if_false, List.cons_append, List.nil_append, ← hb1] at escape ⊢
    simp only [escape, decodeVex2, readR, readV, readL, pp, Bool.not_not, if_true]

/-- The bits that the encoder writes into the VEX bytes: two bytes hold R only. -/
def vexWritten (d : BitVec 4) (src : Rm 4) : Option SpareBits → ExtBits
  | none => ⟨false, d.getLsbD 3, false, false⟩
  | some s => writtenBits d src s

theorem vexBytes_eq_vexPrefix (d v : BitVec 4) (src : Rm 4) (l : Bool) (vex3 : Option SpareBits) :
    vexBytes d v src l vex3 = vexPrefix vex3.isSome (vexWritten d src vex3) v l := by
  cases vex3 <;> rfl

theorem vexAdmitted_of_vexPrefixOk {m : Mode} {d v : BitVec 4} {src : Rm 4} {vex3 : Option SpareBits}
    (h : vexPrefixOk m d v src vex3 = true) : VexAdmitted m vex3.isSome (vexWritten d src vex3) v := by
  cases vex3 with
  | none =>
    refine ⟨fun _ => ⟨rfl, rfl⟩, ?_⟩
    rintro rfl
    simp only [vexPrefixOk, reduceCtorEq, decide_false, Bool.false_or, Bool.and_eq_true, Bool.not_eq_true'] at h
    obtain ⟨-, lowD, lowV⟩ := h
    exact ⟨lowD, rfl, rfl, lowV⟩
  | some s =>
    refine ⟨by simp, ?_⟩
    rintro rfl
    simp only [vexPrefixOk, lowRegisters, reduceCtorEq, decide_false, Bool.false_or, Bool.and_eq_true,
      Bool.not_eq_true'] at h
    obtain ⟨-, ⟨⟨⟨⟨lowD, lowX⟩, lowB⟩, lowV⟩, noX⟩, noB⟩ := h
    exact ⟨lowD, by simp [vexWritten, writtenBits, lowX, noX], by simp [vexWritten, writtenBits, lowB, noB], lowV⟩

theorem recordedAs_vexWritten {m : Mode} {d v : BitVec 4} {src : Rm 4} {vex3 : Option SpareBits}
    (h : vexPrefixOk m d v src vex3 = true) : RecordedAs vex3.isSome (vexWritten d src vex3) vex3 d src := by
  cases vex3 with
  | none =>
    simp only [vexPrefixOk, Bool.and_eq_true, Bool.not_eq_true'] at h
    obtain ⟨⟨lowX, lowB⟩, -⟩ := h
    exact { dest := regNumber_parts d, ext := ⟨fun _ => lowX.symm, fun _ => lowB.symm⟩, recorded := rfl }
  | some s =>
    simp only [vexPrefixOk, Bool.and_eq_true] at h
    obtain ⟨spare, -⟩ := h
    exact
      { dest := regNumber_parts d
        ext := extFor_writtenBits spare
        recorded := congrArg some (spareOf_writtenBits spare) }

/-- The checks of a well-formed VEX form, taken apart. -/
theorem vexOk_iff {m : Mode} {e : VexEnc} {d v : BitVec 4} {src : Rm 4} :
    vexOk m e d v src = true ↔
      prefixesDistinct e.prefixes = true ∧ LegacyPrefix.opSize ∉ e.prefixes ∧ rmOk src = true ∧
        vexPrefixOk m d v src e.vex3 = true ∧ addressOk m e.prefixes src = true := by
  simp [vexOk, and_assoc]

theorem decodeVexOperands_encodeRm {m : Mode} {ps : List LegacyPrefix} {three : Bool} {e : ExtBits}
    {spare : Option SpareBits} {d : BitVec 4} {src : Rm 4} (shape : rmOk src = true)
    (addr : addressOk m ps src = true) (read : RecordedAs three e spare d src) (op : PackOp) (v : BitVec 4) (l : Bool)
    (rest : List Byte) :
    decodeVexOperands m ps three e v l (op.byte :: (encodeRm (d.setWidth 3) src ++ rest)) =
      .form (vexInstr l op ⟨ps, spare⟩ d v src) rest := by
  obtain ⟨dest, ext, rfl⟩ := read
  simp only [encodeRm_eq_cons, List.cons_append, decodeVexOperands, opOfByte_byte, byteTop_fieldByte,
    byteMid_fieldByte, byteLow_fieldByte, address16_rmMod addr, Bool.false_eq_true, if_false,
    decodeRm_rmTail regNumber_parts shape ext, dest, recordedSpare]

theorem decode_encode_vex {m : Mode} {e : VexEnc} {d v : BitVec 4} {src : Rm 4} (wf : vexOk m e d v src = true)
    (op : PackOp) (l : Bool) (rest : List Byte) :
    decode m (encodeVex op l e d v src ++ rest) = .form (vexInstr l op e d v src) rest := by
  obtain ⟨distinct, size, shape, prefixFits, addr⟩ := vexOk_iff.1 wf
  have twoW : e.vex3.isSome = false → (vexWritten d src e.vex3).w = false := by
    cases e.vex3 with
    | none => exact fun _ => rfl
    | some s => simp
  have reached := decode_vexPrefix distinct size (vexAdmitted_of_vexPrefixOk prefixFits) twoW l
    (op.byte :: (encodeRm (d.setWidth 3) src ++ rest))
  rw [decodeVexOperands_encodeRm shape addr (recordedAs_vexWritten prefixFits)] at reached
  simpa only [encodeVex, vexBytes_eq_vexPrefix, List.append_assoc, List.cons_append, List.nil_append] using reached

/-! ## The eight forms -/

/-- Settles O1: each form is one of three kinds, and the decoder takes the encoder's bytes apart again. -/
theorem decodeReadsEncode : Obligations.DecodeReadsEncode := by
  intro m i rest wf
  cases i with
  | packsswbMm e d src => exact decode_encode_mmx wf .wb rest
  | packssdwMm e d src => exact decode_encode_mmx wf .dw rest
  | packsswbXmm e d src => exact decode_encode_sse wf .wb rest
  | packssdwXmm e d src => exact decode_encode_sse wf .dw rest
  | vpacksswbXmm e d v src => exact decode_encode_vex wf .wb false rest
  | vpackssdwXmm e d v src => exact decode_encode_vex wf .dw false rest
  | vpacksswbYmm e d v src => exact decode_encode_vex wf .wb true rest
  | vpackssdwYmm e d v src => exact decode_encode_vex wf .dw true rest

/-- Settles O2: the decoder accepts nothing but what the encoder writes for the well-formed term it answers. -/
theorem encodeWritesDecoded : Obligations.EncodeWritesDecoded :=
  fun _ _ _ _ decoded => spells_of_decode decoded

end Sys2Proof

/-!
PROOFS (spec/30_encoding.md, rules R63, R66, R78, R79 and R81): the length of an instruction, 66H and REX before VEX,
and the bytes that `M32` refuses.
-/

namespace Sys2Proof

/-! ## The number of legacy prefixes (rules R63 and R79) -/

/-- Distinct prefixes are one at most of each kind. -/
theorem prefixesDistinct_iff_nodup (ps : List LegacyPrefix) :
    prefixesDistinct ps = true ↔ (ps.map prefixKind).Nodup := by
  induction ps with
  | nil => simp [prefixesDistinct]
  | cons p ps ih => simp [prefixesDistinct, ih, sameKind_iff, eq_comm (a := prefixKind p)]

theorem prefixKind_opSize_mem_iff (ps : List LegacyPrefix) :
    prefixKind .opSize ∈ ps.map prefixKind ↔ LegacyPrefix.opSize ∈ ps := by
  have kind : ∀ p, prefixKind p = prefixKind .opSize ↔ p = .opSize := by
    intro p
    cases p <;> simp [prefixKind]
  simp [kind]

/-- 66H is distinct from prefixes without it, wherever it is put among them. -/
theorem prefixesDistinct_insert_opSize {ps qs : List LegacyPrefix} (distinct : prefixesDistinct (ps ++ qs) = true)
    (size : LegacyPrefix.opSize ∉ ps ++ qs) : prefixesDistinct (ps ++ .opSize :: qs) = true := by
  rw [prefixesDistinct_iff_nodup] at distinct ⊢
  rw [← prefixKind_opSize_mem_iff] at size
  rw [List.map_append] at distinct size
  rw [List.map_append, List.map_cons, List.nodup_middle, List.nodup_cons]
  exact ⟨size, distinct⟩

/-- Distinct prefixes without 66H are at most two. -/
theorem length_le_two_of_no_opSize {ps : List LegacyPrefix} (distinct : prefixesDistinct ps = true)
    (size : LegacyPrefix.opSize ∉ ps) : ps.length ≤ 2 :=
  Nat.le_of_succ_le_succ (length_le_of_prefixesDistinct (prefixesDistinct_insert_opSize (ps := []) distinct size))

/-! ## Length (rule R79) -/

theorem rmLength_bounds {w : Nat} (src : Rm w) : 1 ≤ rmLength src ∧ rmLength src ≤ 6 := by
  have disp_le (disp : Disp) : disp.length ≤ 4 := by cases disp <;> simp [Disp.length]
  rcases src with r | (⟨b, disp⟩ | d | ⟨scale, index, base, disp⟩ | ⟨scale, index, d⟩)
  · simp [rmLength]
  · have := disp_le disp
    simp only [rmLength]
    omega
  · simp [rmLength]
  · have := disp_le disp
    simp only [rmLength]
    omega
  · simp [rmLength]

theorem legacyLength_bounds {w : Nat} {m : Mode} {sse : Bool} {e : LegacyEnc} {d : BitVec w} {src : Rm w}
    (wf : legacyOk m sse e d src = true) : 3 ≤ legacyLength e src ∧ legacyLength e src ≤ 12 := by
  obtain ⟨distinct, -⟩ := legacyOk_iff.1 wf
  have prefixes := length_le_of_prefixesDistinct distinct
  have operands := rmLength_bounds src
  simp only [legacyLength]
  split_ifs <;> omega

theorem vexLength_bounds {m : Mode} {e : VexEnc} {d v : BitVec 4} {src : Rm 4} (wf : vexOk m e d v src = true) :
    3 ≤ vexLength e src ∧ vexLength e src ≤ 12 := by
  obtain ⟨distinct, size, -⟩ := vexOk_iff.1 wf
  have prefixes := length_le_two_of_no_opSize distinct size
  have operands := rmLength_bounds src
  simp only [vexLength]
  split_ifs <;> omega

/-- Settles O3: a non-VEX form has at most three prefixes and one REX byte, a VEX form at most two prefixes and three
VEX bytes, and the operand bytes are one to six. -/
theorem lengthIsThreeToTwelve : Obligations.LengthIsThreeToTwelve := by
  intro m i wf
  rw [Machine.encode_length]
  cases i with
  | packsswbMm e d src | packssdwMm e d src => exact legacyLength_bounds (d := d) wf
  | packsswbXmm e d src | packssdwXmm e d src => exact legacyLength_bounds (d := d) wf
  | vpacksswbXmm e d v src | vpackssdwXmm e d v src => exact vexLength_bounds (d := d) wf
  | vpacksswbYmm e d v src | vpackssdwYmm e d v src => exact vexLength_bounds (d := d) wf

/-! ## 66H and REX before VEX (rule R66) -/

/-- A VEX form is distinct prefixes without 66H, and C4H or C5H with a byte after it that is VEX in the mode. -/
theorem encodeVex_escape {m : Mode} {e : VexEnc} {d v : BitVec 4} {src : Rm 4} (wf : vexOk m e d v src = true)
    (op : PackOp) (l : Bool) :
    prefixesDistinct e.prefixes = true ∧ LegacyPrefix.opSize ∉ e.prefixes ∧
      ∃ (three : Bool) (b : Byte) (more : List Byte), isVexByte m b = true ∧
        encodeVex op l e d v src =
          e.prefixes.map LegacyPrefix.byte ++ (if three then 0xC4 else 0xC5) :: b :: more := by
  obtain ⟨distinct, size, -⟩ := vexOk_iff.1 wf
  obtain ⟨three, b, more, spelled, vexByte⟩ := vexBytes_isVex wf l
  exact ⟨distinct, size, three, b, more ++ op.byte :: encodeRm (d.setWidth 3) src, vexByte,
    by simp [encodeVex, spelled]⟩

theorem encode_escape_of_isVex {m : Mode} {i : Instr} (wf : wellFormed m i = true)
    (isVex : (Machine.formClass i).isVex = true) :
    prefixesDistinct (Machine.legacyPrefixes i) = true ∧ LegacyPrefix.opSize ∉ Machine.legacyPrefixes i ∧
      ∃ (three : Bool) (b : Byte) (more : List Byte), isVexByte m b = true ∧
        encode i =
          (Machine.legacyPrefixes i).map LegacyPrefix.byte ++ (if three then 0xC4 else 0xC5) :: b :: more := by
  cases i with
  | packsswbMm e d src | packssdwMm e d src | packsswbXmm e d src | packssdwXmm e d src => cases isVex
  | vpacksswbXmm e d v src => exact encodeVex_escape wf .wb false
  | vpackssdwXmm e d v src => exact encodeVex_escape wf .dw false
  | vpacksswbYmm e d v src => exact encodeVex_escape wf .wb true
  | vpackssdwYmm e d v src => exact encodeVex_escape wf .dw true

/-- A REX byte is none of the legacy prefixes. -/
theorem rexByte_kind_low : ∀ low : BitVec 4,
    prefixOfByte (4#4 ++ low) = none ∧ isRex .m64 (4#4 ++ low) = true := by decide

/-- Settles O6: with 66H among them the prefixes are still distinct, and 66H or REX blocks the VEX bytes. -/
theorem prefixBeforeVexIsUndefined : Obligations.PrefixBeforeVexIsUndefined := by
  intro m i wf isVex
  obtain ⟨distinct, size, three, b, more, vexByte, encoded⟩ := encode_escape_of_isVex wf isVex
  rw [encoded]
  constructor
  · intro k hk
    rw [← List.take_append_drop k (Machine.legacyPrefixes i)] at distinct size
    have among := decode_vexEscape (prefixesDistinct_insert_opSize distinct size) m none three (b :: more)
    have blocked : LegacyPrefix.opSize ∈
        (Machine.legacyPrefixes i).take k ++ .opSize :: (Machine.legacyPrefixes i).drop k := by simp
    rw [decide_eq_true blocked, Bool.true_or, decodeVex_blocked vexByte] at among
    rw [List.take_append_of_le_length (by simpa using hk), List.drop_append_of_le_length (by simpa using hk)]
    simpa [Machine.prefixBytes, LegacyPrefix.byte] using among
  · rintro low rfl
    obtain ⟨notPrefix, isRexByte⟩ := rexByte_kind_low low
    rw [List.take_left' (by simp), List.drop_left' (by simp), decode_prefixes distinct notPrefix,
      decodeAfterPrefixes, if_pos isRexByte, decodeOpcode_vex, Bool.or_true, decodeVex_blocked vexByte]

/-! ## LES and LDS (rule R81) -/

theorem decodeVexOperands_ne_lesOrLds (m : Mode) (ps : List LegacyPrefix) (three : Bool) (e : ExtBits) (v : BitVec 4)
    (l : Bool) (bytes : List Byte) : decodeVexOperands m ps three e v l bytes ≠ .refuse .lesOrLds := by
  match bytes with
  | [] => simp [decodeVexOperands]
  | [ob] =>
    simp only [decodeVexOperands]
    split <;> simp
  | ob :: modrm :: tail =>
    simp only [decodeVexOperands]
    split
    · simp
    · split_ifs
      · simp
      all_goals split <;> simp

theorem decodeVex3_ne_lesOrLds (m : Mode) (ps : List LegacyPrefix) (bytes : List Byte) :
    decodeVex3 m ps bytes ≠ .refuse .lesOrLds := by
  match bytes with
  | [] | [_] => simp [decodeVex3]
  | b1 :: b2 :: tail =>
    simp only [decodeVex3]
    split_ifs
    · simp
    · exact decodeVexOperands_ne_lesOrLds _ _ _ _ _ _ _
    · simp

theorem decodeVex2_ne_lesOrLds (m : Mode) (ps : List LegacyPrefix) (bytes : List Byte) :
    decodeVex2 m ps bytes ≠ .refuse .lesOrLds := by
  cases bytes with
  | nil => simp [decodeVex2]
  | cons b1 tail =>
    simp only [decodeVex2]
    split_ifs
    · exact decodeVexOperands_ne_lesOrLds _ _ _ _ _ _ _
    · simp

theorem decodeVex_lesOrLds_iff (ps : List LegacyPrefix) (blocked three : Bool) (b : Byte) (bytes : List Byte) :
    decodeVex .m32 ps blocked three (b :: bytes) = .refuse .lesOrLds ↔ byteTop b ≠ 3 := by
  by_cases vexByte : byteTop b = 3
  · have isVex : isVexByte .m32 b = true := decide_eq_true vexByte
    refine iff_of_false ?_ (not_not.2 vexByte)
    cases blocked with
    | true => simp [decodeVex_blocked isVex]
    | false =>
      rw [decodeVex_admitted isVex]
      split_ifs
      · exact decodeVex3_ne_lesOrLds _ _ _
      · exact decodeVex2_ne_lesOrLds _ _ _
  · have notVex : isVexByte .m32 b = false := decide_eq_false vexByte
    simp only [decodeVex, notVex, Bool.false_eq_true, if_false, ne_eq, vexByte, not_false_eq_true]

/-- Settles O8: whatever precedes them, C4H and C5H are LES and LDS by the byte after them alone. -/
theorem vexByteIn32BitMode : Obligations.VexByteIn32BitMode := by
  intro ps lock b bytes distinct
  have escape (three : Bool) := decode_vexEscape distinct .m32 lock three (b :: bytes)
  exact ⟨escape true ▸ decodeVex_lesOrLds_iff .., escape false ▸ decodeVex_lesOrLds_iff ..⟩

/-! ## 16-bit addressing (rule R78) -/

theorem address16_of_addrSize {ps : List LegacyPrefix} {mod : BitVec 2} (size : LegacyPrefix.addrSize ∈ ps)
    (notReg : mod ≠ 3) : address16 .m32 ps mod = true := by
  rw [address16, decide_eq_true rfl, decide_eq_true notReg, decide_eq_true size]
  rfl

section address16

variable {m : Mode} {ps : List LegacyPrefix} {modrm : Byte}

theorem decodeLegacyOperands_address16 (addr : address16 m ps (byteTop modrm) = true) (op : PackOp)
    (rest : List Byte) :
    decodeLegacyOperands m ps false noExt op (modrm :: rest) = .refuse .address16 := by
  simp only [decodeLegacyOperands, addr, noExt, Bool.false_and, Bool.or_self, Bool.false_eq_true, if_false, if_true,
    ite_self]

theorem decodeVexOperands_address16 (addr : address16 m ps (byteTop modrm) = true) (three : Bool) (e : ExtBits)
    (v : BitVec 4) (l : Bool) (op : PackOp) (rest : List Byte) :
    decodeVexOperands m ps three e v l (op.byte :: modrm :: rest) = .refuse .address16 := by
  simp only [decodeVexOperands, opOfByte_byte, addr, if_true]

end address16

/-- Bits 7:5 set in the VEX byte after C4H say that R, X and B are clear (rule R81). -/
theorem vex3_low_bits : ∀ b : Byte, b.extractLsb' 5 3 = 7#3 → byteTop b = 3 ∧ b.getLsbD 5 = true := by decide

/-- Bit 6 set in the last VEX byte says that `vvvv[3]` is clear (decision D21). -/
theorem vexV_low : ∀ b : Byte, b.getLsbD 6 = true → (vexV b).getLsbD 3 = false := by decide

section spellings

variable {ps : List LegacyPrefix} {modrm : Byte} (distinct : prefixesDistinct ps = true)
  (addr : address16 .m32 ps (byteTop modrm) = true)

include distinct addr

theorem decode_legacy_address16 (op : PackOp) (rest : List Byte) :
    decode .m32 (Machine.prefixBytes ps none ++ 0x0F :: op.byte :: modrm :: rest) = .refuse .address16 := by
  have reached := decode_rexPrefix (m := .m32) (rex := false) (e := noExt) distinct ⟨by simp, fun _ => rfl⟩
    (op.byte :: modrm :: rest)
  simp only [decodeLegacy, opOfByte_byte, Bool.false_eq_true, if_false, decodeLegacyOperands_address16 addr] at reached
  exact reached

theorem decode_vex2_address16 (size : LegacyPrefix.opSize ∉ ps) {b1 : Byte} (vexByte : byteTop b1 = 3)
    (pp : b1.extractLsb' 0 2 = 1#2) (op : PackOp) (rest : List Byte) :
    decode .m32 (Machine.prefixBytes ps none ++ 0xC5 :: b1 :: op.byte :: modrm :: rest) = .refuse .address16 := by
  have reached := decode_vexAdmitted (m := .m32) distinct size (decide_eq_true vexByte) false
    (op.byte :: modrm :: rest)
  simp only [decodeVex2, vexPpOk, pp, decide_true, Bool.false_eq_true, if_false, if_true,
    decodeVexOperands_address16 addr] at reached
  exact reached

theorem decode_vex3_address16 (size : LegacyPrefix.opSize ∉ ps) {b1 b2 : Byte} (high : b1.extractLsb' 5 3 = 7#3)
    (map : b1.extractLsb' 0 5 = 1#5) (lowV : b2.getLsbD 6 = true) (pp : b2.extractLsb' 0 2 = 1#2) (op : PackOp)
    (rest : List Byte) :
    decode .m32 (Machine.prefixBytes ps none ++ 0xC4 :: b1 :: b2 :: op.byte :: modrm :: rest) =
      .refuse .address16 := by
  obtain ⟨vexByte, lowB⟩ := vex3_low_bits b1 high
  have reached := decode_vexAdmitted (m := .m32) distinct size (decide_eq_true vexByte) true
    (b2 :: op.byte :: modrm :: rest)
  simp only [decodeVex3, lowB, vexV_low b2 lowV, map, vexPpOk, pp, decide_true, Bool.not_true, Bool.false_eq_true,
    or_self, and_false, and_self, if_false, if_true, decodeVexOperands_address16 addr] at reached
  exact reached

end spellings

end Sys2Proof

namespace Sys2Proof.Machine

/-! ## 16-bit addressing in the instructions (rule R78, decision D20) -/

section source

variable {s : State} {ps : List LegacyPrefix}

theorem memOperand_address16 (size : LegacyPrefix.addrSize ∈ ps) (ilen n : Nat) (align16 : Bool) (mo : MemOperand) :
    memOperand s .m32 ps ilen n align16 mo = .error (.refuse .address16) := by
  simp only [memOperand, addrSize, decide_eq_true size]

theorem runMm_address16 {pack : BitVec 64 → BitVec 64 → BitVec 64} {e : LegacyEnc} {d : BitVec 3}
    (admitted : admitForm .mmx s = .ok .m32) (size : LegacyPrefix.addrSize ∈ e.prefixes) (mo : MemOperand) :
    runMm pack e d (.mem mo) s = .error (.refuse .address16) := by
  simp only [runMm, admitted, mmSource, memOperand_address16 size]

theorem runSse_address16 {pack : BitVec 128 → BitVec 128 → BitVec 128} {e : LegacyEnc} {d : BitVec 4}
    (admitted : admitForm .sse2 s = .ok .m32) (size : LegacyPrefix.addrSize ∈ e.prefixes) (mo : MemOperand) :
    runSse pack e d (.mem mo) s = .error (.refuse .address16) := by
  simp only [runSse, admitted, xmmSource, memOperand_address16 size]

theorem runVex128_address16 {pack : BitVec 128 → BitVec 128 → BitVec 128} {e : VexEnc} {d v : BitVec 4}
    (admitted : admitForm .vex128 s = .ok .m32) (size : LegacyPrefix.addrSize ∈ e.prefixes) (mo : MemOperand) :
    runVex128 pack e d v (.mem mo) s = .error (.refuse .address16) := by
  simp only [runVex128, admitted, xmmSource, memOperand_address16 size]

theorem runVex256_address16 {pack : BitVec 256 → BitVec 256 → BitVec 256} {e : VexEnc} {d v : BitVec 4}
    (admitted : admitForm .vex256 s = .ok .m32) (size : LegacyPrefix.addrSize ∈ e.prefixes) (mo : MemOperand) :
    runVex256 pack e d v (.mem mo) s = .error (.refuse .address16) := by
  simp only [runVex256, admitted, ymmSource, memOperand_address16 size]

end source

/-- A ready instruction whose memory operand uses 16-bit addressing is refused. -/
theorem exec_address16 {i : Instr} {s : State} {mo : MemOperand} {ps : List LegacyPrefix} {n : Nat}
    (ready : FormReady (formClass i) s .m32) (operand : operandOf i = some (mo, ps, n))
    (size : LegacyPrefix.addrSize ∈ ps) : exec i s = .refused .address16 := by
  have admitted := admitForm_of_formReady ready
  cases i with
  | packsswbMm e d src | packssdwMm e d src =>
    cases src with
    | reg r => cases operand
    | mem mo =>
      cases operand
      exact congrArg (finish s) (runMm_address16 admitted size mo)
  | packsswbXmm e d src | packssdwXmm e d src =>
    cases src with
    | reg r => cases operand
    | mem mo =>
      cases operand
      exact congrArg (finish s) (runSse_address16 admitted size mo)
  | vpacksswbXmm e d v src | vpackssdwXmm e d v src =>
    cases src with
    | reg r => cases operand
    | mem mo =>
      cases operand
      exact congrArg (finish s) (runVex128_address16 admitted size mo)
  | vpacksswbYmm e d v src | vpackssdwYmm e d v src =>
    cases src with
    | reg r => cases operand
    | mem mo =>
      cases operand
      exact congrArg (finish s) (runVex256_address16 admitted size mo)

/-- Settles O10: 67H with a memory operand is 16-bit addressing in `M32`, in each spelling and for each form. -/
theorem sixteenBitAddressingRefused : Obligations.SixteenBitAddressingRefused := by
  constructor
  · intro ps op modrm rest distinct size notReg
    have addr := address16_of_addrSize size notReg
    exact ⟨decode_legacy_address16 distinct addr op rest, fun noSize =>
      ⟨fun _ vexByte pp => decode_vex2_address16 distinct addr noSize vexByte pp op rest,
        fun _ _ high map lowV pp => decode_vex3_address16 distinct addr noSize high map lowV pp op rest⟩⟩
  · intro i s mo ps n ready operand size
    exact exec_address16 ready operand size

end Sys2Proof.Machine

/-!
PROOFS (spec/30_encoding.md section 5): the segment and the effective address of a memory operand.
-/

namespace Sys2Proof.Machine

/-! ## The segment (rule R77) -/

theorem segOverride_eq_none {ps : List LegacyPrefix} (h : ∀ seg, LegacyPrefix.seg seg ∉ ps) :
    segOverride ps = none := by
  induction ps with
  | nil => rfl
  | cons p ps ih =>
    have rest := ih fun seg later => h seg (List.mem_cons_of_mem p later)
    cases p with
    | opSize | addrSize => exact rest
    | seg seg => exact absurd List.mem_cons_self (h seg)

/-- The one override among distinct prefixes is the one found. -/
theorem segOverride_eq_some {ps : List LegacyPrefix} {seg : Seg} (distinct : prefixesDistinct ps = true)
    (h : LegacyPrefix.seg seg ∈ ps) : segOverride ps = some seg := by
  induction ps with
  | nil => cases h
  | cons p ps ih =>
    simp only [prefixesDistinct, Bool.and_eq_true, Bool.not_eq_true', List.any_eq_false] at distinct
    obtain ⟨fresh, distinct⟩ := distinct
    rcases List.mem_cons.1 h with rfl | later
    · rfl
    · cases p with
      | opSize | addrSize => exact ih distinct later
      | seg other => exact absurd rfl (fresh _ later)

theorem operandSeg_of_no_override {ps : List LegacyPrefix} (h : ∀ seg, LegacyPrefix.seg seg ∉ ps) (mo : MemOperand) :
    operandSeg ps mo = defaultSeg mo := by
  simp only [operandSeg, segOverride_eq_none h]

theorem baseOk_ne_four {b : BitVec 4} {disp : Disp} (h : baseOk b disp = true) : b ≠ 4 := by
  rintro rfl
  exact ((baseOk_iff 4 disp).1 h).1 rfl

/-- Settles O49: without an override the default segment is taken, and a base register without SIB is never number 4;
one override among distinct prefixes is the first. -/
theorem operandSegments : Obligations.OperandSegments := by
  intro ps
  refine ⟨fun noOverride => ?_, fun seg mo distinct override => ?_⟩
  · have default := operandSeg_of_no_override noOverride
    refine ⟨fun b disp shape => ?_, fun _ _ _ _ => default _, fun _ => default _, fun _ _ _ => default _⟩
    simp only [default, defaultSeg, baseOk_ne_four shape, false_or]
  · simp only [operandSeg, segOverride_eq_some distinct override]

/-! ## The effective address (rules R73 to R76) -/

/-- The value `q` is the integer `z`, up to the bits above the address size. -/
abbrev Represents (a : AddrSize) (q : Quad) (z : ℤ) : Prop := (q.toNat : ℤ) ≡ z [ZMOD 2 ^ a.bits]

section represents

variable {a : AddrSize}

/-- A result of 64-bit arithmetic has the right bits below the address size. -/
theorem modEq_of_emod {x y : ℤ} (h : x = y % 2 ^ 64) : x ≡ y [ZMOD 2 ^ a.bits] := by
  have divides : (2 : ℤ) ^ a.bits ∣ 2 ^ 64 := pow_dvd_pow 2 (by cases a <;> decide)
  exact (h ▸ Int.mod_modEq y _ : x ≡ y [ZMOD 2 ^ 64]).of_dvd divides

theorem represents_self (q : Quad) : Represents a q q.toNat := rfl

theorem represents_zero : Represents a 0 0 := rfl

theorem Represents.add {p q : Quad} {y z : ℤ} (hp : Represents a p y) (hq : Represents a q z) :
    Represents a (p + q) (y + z) :=
  (modEq_of_emod (by simp)).trans (Int.ModEq.add hp hq)

theorem Represents.shiftLeft {q : Quad} {z : ℤ} (h : Represents a q z) (n : Nat) :
    Represents a (q <<< n) (z * 2 ^ n) :=
  (modEq_of_emod (by simp [Nat.shiftLeft_eq])).trans (Int.ModEq.mul_right _ h)

theorem represents_signExtend {w : Nat} (d : BitVec w) : Represents a (d.signExtend 64) d.toInt := by
  refine modEq_of_emod ?_
  rw [BitVec.signExtend, BitVec.toNat_ofInt]
  exact Int.toNat_of_nonneg (Int.emod_nonneg _ (by decide))

/-- `trunc_A` is the remainder by the address size. -/
theorem toNat_truncSize (a : AddrSize) (q : Quad) : ((truncSize a q).toNat : ℤ) = q.toNat % 2 ^ a.bits := by
  have bound := q.isLt
  cases a with
  | a32 =>
    simp only [truncSize, AddrSize.bits, BitVec.toNat_setWidth]
    omega
  | a64 =>
    simp only [truncSize, AddrSize.bits]
    omega

theorem Represents.trunc {q : Quad} {z : ℤ} (h : Represents a q z) : Represents a (truncSize a q) z := by
  rw [Represents, toNat_truncSize]
  exact (Int.mod_modEq _ _).trans h

theorem represents_readAddrReg (s : State) (i : BitVec 4) : Represents a (readAddrReg s a i) (s.readGpr i).toNat :=
  (represents_self _).trunc

theorem represents_dispValue (disp : Disp) : Represents a (dispValue disp) (dispInt disp) := by
  cases disp with
  | none => exact represents_zero
  | d8 d => exact represents_signExtend d
  | d32 d => exact represents_signExtend d

theorem represents_indexPart (s : State) (scale : BitVec 2) (index : BitVec 4) :
    Represents a (indexPart s a scale index) (indexInt s scale index) := by
  unfold indexPart indexInt
  split_ifs
  · exact represents_zero
  · exact (represents_readAddrReg s index).shiftLeft _

theorem represents_addrSum (s : State) (m : Mode) (next : Quad) (mo : MemOperand) :
    Represents a (addrSum s m a next mo) (addrInt s m next mo) := by
  cases mo with
  | base b disp => exact (represents_readAddrReg s b).add (represents_dispValue disp)
  | disp32 d =>
    have disp := represents_signExtend (a := a) d
    cases m with
    | m64 => exact (represents_self next).add disp
    | m32 => simpa [addrInt, addrSum] using disp
  | sib scale index base disp =>
    exact ((represents_readAddrReg s base).add (represents_indexPart s scale index)).add (represents_dispValue disp)
  | sibNoBase scale index d => exact (represents_signExtend d).add (represents_indexPart s scale index)

end represents

/-- Settles O48: each summand has the bits of its integer below the address size, and so has the sum. -/
theorem effectiveAddressIsTruncatedSum : Obligations.EffectiveAddressIsTruncatedSum := by
  intro s m prefixes a next mo _
  rw [effectiveAddr, toNat_truncSize]
  exact represents_addrSum s m next mo

end Sys2Proof.Machine

/-!
PROOFS (spec/10_state.md section 12): a VEX form does not read its destination.
-/

namespace Sys2Proof.Machine

/-! ## The destination of a VEX form (rules R33 and R62) -/

section destination

variable {s : State} {d : BitVec 4} {x : YmmVal}

/-- The second of two writes to a register is the one that counts. -/
theorem State.writeYmm_writeYmm_self (s : State) (i : BitVec 4) (v v' : YmmVal) :
    (s.writeYmm i v).writeYmm i v' = s.writeYmm i v' := by
  simp [State.writeYmm]

theorem admitForm_writeYmm (c : FormClass) (s : State) (d : BitVec 4) (x : YmmVal) :
    admitForm c (s.writeYmm d x) = admitForm c s := rfl

theorem readXmm_writeYmm_other {j : BitVec 4} (h : j ≠ d) : (s.writeYmm d x).readXmm j = s.readXmm j := by
  rw [State.readXmm, State.readYmm_writeYmm_other s x h, State.readXmm]

theorem memOperand_writeYmm (s : State) (d : BitVec 4) (x : YmmVal) (m : Mode) (ps : List LegacyPrefix) (ilen n : Nat)
    (align16 : Bool) (mo : MemOperand) :
    memOperand (s.writeYmm d x) m ps ilen n align16 mo = memOperand s m ps ilen n align16 mo := rfl

theorem ne_of_not_mem_rmRegisters {r : BitVec 4} (h : d ∉ rmRegisters (.reg r)) : r ≠ d := by
  rintro rfl
  exact h (List.mem_singleton_self r)

theorem xmmSource_writeYmm {src : Rm 4} (notRead : d ∉ rmRegisters src) (m : Mode) (ps : List LegacyPrefix)
    (ilen : Nat) (align16 : Bool) :
    xmmSource (s.writeYmm d x) m ps ilen align16 src = xmmSource s m ps ilen align16 src := by
  cases src with
  | reg r =>
    exact congrArg Except.ok (readXmm_writeYmm_other (ne_of_not_mem_rmRegisters notRead))
  | mem mo => exact memOperand_writeYmm s d x m ps ilen 16 align16 mo

theorem ymmSource_writeYmm {src : Rm 4} (notRead : d ∉ rmRegisters src) (m : Mode) (ps : List LegacyPrefix)
    (ilen : Nat) : ymmSource (s.writeYmm d x) m ps ilen src = ymmSource s m ps ilen src := by
  cases src with
  | reg r =>
    exact congrArg Except.ok (State.readYmm_writeYmm_other s x (ne_of_not_mem_rmRegisters notRead))
  | mem mo => exact memOperand_writeYmm s d x m ps ilen 32 false mo

theorem runVex128_writeYmm {e : VexEnc} {v : BitVec 4} {src : Rm 4} (notRead : d ∉ v :: rmRegisters src)
    (pack : BitVec 128 → BitVec 128 → BitVec 128) :
    runVex128 pack e d v src (s.writeYmm d x) = runVex128 pack e d v src s := by
  obtain ⟨notV, notSrc⟩ : d ≠ v ∧ d ∉ rmRegisters src := by simpa using notRead
  simp only [runVex128, admitForm_writeYmm, xmmSource_writeYmm notSrc, readXmm_writeYmm_other (Ne.symm notV),
    State.writeXmmZeroUpper, State.writeYmm_writeYmm_self]

theorem runVex256_writeYmm {e : VexEnc} {v : BitVec 4} {src : Rm 4} (notRead : d ∉ v :: rmRegisters src)
    (pack : BitVec 256 → BitVec 256 → BitVec 256) :
    runVex256 pack e d v src (s.writeYmm d x) = runVex256 pack e d v src s := by
  obtain ⟨notV, notSrc⟩ : d ≠ v ∧ d ∉ rmRegisters src := by simpa using notRead
  simp only [runVex256, admitForm_writeYmm, ymmSource_writeYmm notSrc,
    State.readYmm_writeYmm_other s x (Ne.symm notV), State.writeYmm_writeYmm_self]

/-- An instruction that completed completes in the same way from a state with the same result. -/
theorem finish_next_of_eq {s s' t : State} {r r' : Except Stop State} (h : finish s r = .next t) (same : r' = r) :
    finish s' r' = .next t := by
  rw [same, finish_next h, finish_ok]

end destination

/-- Settles O29: admission, the source registers and the operand are the same, and the new value replaces the old. -/
theorem vexDestinationIsNotRead : Obligations.VexDestinationIsNotRead := by
  intro i s d x isVex dest notRead t completed
  cases i with
  | packsswbMm e d' src | packssdwMm e d' src | packsswbXmm e d' src | packssdwXmm e d' src => cases isVex
  | vpacksswbXmm e d' v src | vpackssdwXmm e d' v src =>
    cases dest
    exact finish_next_of_eq completed (runVex128_writeYmm (by cases src <;> exact notRead) _)
  | vpacksswbYmm e d' v src | vpackssdwYmm e d' v src =>
    cases dest
    exact finish_next_of_eq completed (runVex256_writeYmm (by cases src <;> exact notRead) _)

end Sys2Proof.Machine

/-!
PROOFS (spec/30_encoding.md, rules R57 and R80): bytes at `pc` that are no form stop the step. The decoder answers #UD
or a refusal from the bytes it has read by then, so that bytes after those make no difference.
-/

namespace Sys2Proof

/-! ## Bytes that stop the decoder (rules R80, R82 and R86) -/

/-- The answer is #UD or a refusal. -/
def Decoded.Stops : Decoded → Prop
  | .ud => True
  | .refuse _ => True
  | _ => False

section stops

variable {m : Mode} {ps : List LegacyPrefix} {lock rex : Bool} {e : ExtBits} {bytes : List Byte}

theorem decodeLegacyOperands_append {op : PackOp} (h : (decodeLegacyOperands m ps rex e op bytes).Stops)
    (more : List Byte) :
    decodeLegacyOperands m ps rex e op (bytes ++ more) = decodeLegacyOperands m ps rex e op bytes := by
  cases bytes with
  | nil => cases h
  | cons modrm tail =>
    simp only [List.cons_append, decodeLegacyOperands] at h ⊢
    by_cases size : LegacyPrefix.opSize ∈ ps
    · simp only [size, if_true] at h ⊢
      by_cases addr : address16 m ps (byteTop modrm) = true
      · simp only [addr, if_true]
      · simp only [addr, Bool.false_eq_true, if_false] at h
        split at h <;> cases h
    · simp only [size, if_false] at h ⊢
      by_cases mmxBits : (e.r || e.b && decide (byteTop modrm = 3)) = true
      · simp only [mmxBits, if_true]
      by_cases addr : address16 m ps (byteTop modrm) = true
      · simp only [addr, if_true]
      · simp only [mmxBits, addr, Bool.false_eq_true, if_false] at h
        split at h <;> cases h

theorem decodeLegacy_append (h : (decodeLegacy m ps lock rex e bytes).Stops) (more : List Byte) :
    decodeLegacy m ps lock rex e (bytes ++ more) = decodeLegacy m ps lock rex e bytes := by
  cases bytes with
  | nil => cases h
  | cons ob tail =>
    simp only [List.cons_append, decodeLegacy] at h ⊢
    split
    · rfl
    · next op hop =>
      simp only [hop] at h
      split_ifs at h ⊢
      · rfl
      · exact decodeLegacyOperands_append h more

theorem decodeVexOperands_append {three l : Bool} {v : BitVec 4}
    (h : (decodeVexOperands m ps three e v l bytes).Stops) (more : List Byte) :
    decodeVexOperands m ps three e v l (bytes ++ more) = decodeVexOperands m ps three e v l bytes := by
  cases bytes with
  | nil => cases h
  | cons ob tail =>
    cases hop : opOfByte ob with
    | none => simp only [List.cons_append, decodeVexOperands, hop]
    | some op =>
      cases tail with
      | nil => simp [decodeVexOperands, hop, Decoded.Stops] at h
      | cons modrm tail =>
        simp only [List.cons_append, decodeVexOperands, hop] at h ⊢
        split_ifs at h ⊢
        · rfl
        all_goals split at h <;> cases h

theorem decodeVex2_append (h : (decodeVex2 m ps bytes).Stops) (more : List Byte) :
    decodeVex2 m ps (bytes ++ more) = decodeVex2 m ps bytes := by
  cases bytes with
  | nil => cases h
  | cons b1 tail =>
    simp only [List.cons_append, decodeVex2] at h ⊢
    split_ifs at h ⊢
    · exact decodeVexOperands_append h more
    · rfl

theorem decodeVex3_append (h : (decodeVex3 m ps bytes).Stops) (more : List Byte) :
    decodeVex3 m ps (bytes ++ more) = decodeVex3 m ps bytes := by
  match bytes with
  | [] | [_] => cases h
  | b1 :: b2 :: tail =>
    simp only [List.cons_append, decodeVex3] at h ⊢
    split_ifs at h ⊢
    · rfl
    · exact decodeVexOperands_append h more
    · rfl

theorem decodeVex_append {blocked three : Bool} (h : (decodeVex m ps blocked three bytes).Stops) (more : List Byte) :
    decodeVex m ps blocked three (bytes ++ more) = decodeVex m ps blocked three bytes := by
  cases m with
  | m64 =>
    simp only [decodeVex] at h ⊢
    split_ifs at h ⊢
    · rfl
    · exact decodeVex3_append h more
    · exact decodeVex2_append h more
  | m32 =>
    cases bytes with
    | nil => cases h
    | cons b1 tail =>
      simp only [List.cons_append, decodeVex] at h ⊢
      split_ifs at h ⊢
      · rfl
      · exact decodeVex3_append h more
      · exact decodeVex2_append h more
      · rfl

theorem decodeOpcode_append (h : (decodeOpcode m ps lock rex e bytes).Stops) (more : List Byte) :
    decodeOpcode m ps lock rex e (bytes ++ more) = decodeOpcode m ps lock rex e bytes := by
  cases bytes with
  | nil => cases h
  | cons b tail =>
    simp only [List.cons_append, decodeOpcode] at h ⊢
    split_ifs at h ⊢
    · exact decodeLegacy_append h more
    · exact decodeVex_append h more
    · exact decodeVex_append h more
    · rfl

theorem decodeAfterPrefixes_append (h : (decodeAfterPrefixes m ps lock bytes).Stops) (more : List Byte) :
    decodeAfterPrefixes m ps lock (bytes ++ more) = decodeAfterPrefixes m ps lock bytes := by
  cases bytes with
  | nil => cases h
  | cons b tail =>
    simp only [List.cons_append, decodeAfterPrefixes] at h ⊢
    split_ifs at h ⊢
    · exact decodeOpcode_append h more
    · exact decodeOpcode_append (bytes := b :: tail) h more

/-- The answer of the loop over the prefixes with more bytes behind. -/
def Scanned.append : Scanned → List Byte → Scanned
  | .done ps lock rest, extra => .done ps lock (rest ++ extra)
  | .refuse why, _ => .refuse why
  | .more, _ => .more

theorem scanPrefixes_append {seen : List LegacyPrefix} (h : scanPrefixes seen lock bytes ≠ .more) (more : List Byte) :
    scanPrefixes seen lock (bytes ++ more) = (scanPrefixes seen lock bytes).append more := by
  induction bytes generalizing seen lock with
  | nil => exact absurd rfl h
  | cons b tail ih =>
    simp only [List.cons_append, scanPrefixes] at h ⊢
    split
    · rfl
    · rfl
    · next kind =>
      simp only [kind] at h
      split_ifs at h ⊢
      · rfl
      · exact ih h
    · next p kind =>
      simp only [kind] at h
      split_ifs at h ⊢
      · rfl
      · exact ih h

/-- Bytes that are #UD or refused are so whatever follows them. -/
theorem decode_append_of_stops (h : (decode m bytes).Stops) (more : List Byte) :
    decode m (bytes ++ more) = decode m bytes := by
  cases scanned : scanPrefixes [] false bytes with
  | more => simp only [decode, scanned, Decoded.Stops] at h
  | refuse why =>
    have scannedMore := scanPrefixes_append (seen := []) (lock := false) (bytes := bytes) (by simp [scanned]) more
    rw [scanned, Scanned.append] at scannedMore
    simp only [decode, scanned, scannedMore]
  | done ps lock rest =>
    have scannedMore := scanPrefixes_append (seen := []) (lock := false) (bytes := bytes) (by simp [scanned]) more
    rw [scanned, Scanned.append] at scannedMore
    simp only [decode, scanned, scannedMore] at h ⊢
    exact decodeAfterPrefixes_append h more

end stops

end Sys2Proof

namespace Sys2Proof.Machine

/-! ## The fetch and the step -/

/-- The fetch begins with the at most 15 bytes that stand at `pc`. -/
theorem fetchBytes_of_codeAt {s : State} {m : Mode} {bs : List Byte} (code : CodeAt s m bs)
    (short : bs.length ≤ maxInstrBytes) : ∃ more, (fetchBytes s m 0 maxInstrBytes).1 = bs ++ more := by
  obtain ⟨n, hn⟩ := Nat.exists_eq_add_of_le short
  rw [hn, fetchBytes_append fun j hj => by rw [Nat.zero_add]; exact fetchByte_of_codeAt code hj]
  exact ⟨_, rfl⟩

/-- The fetch stops as the decoder does at the bytes that stand at `pc`. -/
theorem decode_fetched_of_stops {s : State} {m : Mode} {bs : List Byte} (code : CodeAt s m bs)
    (short : bs.length ≤ maxInstrBytes) (stops : (decode m bs).Stops) :
    decode m (fetchBytes s m 0 maxInstrBytes).1 = decode m bs := by
  obtain ⟨more, fetched⟩ := fetchBytes_of_codeAt code short
  rw [fetched, decode_append_of_stops stops]

/-- Settles O58: the decoder stops at the fetched bytes for the reason for which it stops at those at `pc`. -/
theorem stepStopsOnUndecoded : Obligations.StepStopsOnUndecoded := by
  intro s m bs mode short code
  constructor
  · intro why refused
    have fetched := decode_fetched_of_stops code short (by rw [refused]; trivial)
    simp only [step, mode, fetchDecode, fetched, refused, finish_refuse]
  · intro ud
    have fetched := decode_fetched_of_stops code short (by rw [ud]; trivial)
    simp only [step, mode, fetchDecode, fetched, ud, finish_raise, raise]

end Sys2Proof.Machine

/-!
PROOFS (spec/40_pack_common.md, rules R90 to R94): saturation as the clamp of the signed value, once for every width,
then the elements of the 128-bit and 256-bit packs from those of their quadwords.
-/

namespace Sys2Proof.Machine

/-! ## Signed saturation at any width -/

/-- The signed value clamped to `n` bits: what rules R90 and R91 share. -/
def saturate (n : Nat) {W : Nat} (x : BitVec W) : BitVec n :=
  if 2 ^ (n - 1) - 1 < x.toInt then BitVec.intMax n
  else if x.toInt < -2 ^ (n - 1) then BitVec.intMin n
  else x.extractLsb' 0 n

theorem satSW2SB_eq_saturate (w : BitVec 16) : satSW2SB w = saturate 8 w := rfl

theorem satSD2SW_eq_saturate (d : BitVec 32) : satSD2SW d = saturate 16 d := rfl

section saturation

variable {n W : Nat}

/-- The low bits have the signed value modulo their width. -/
theorem toInt_extractLsb'_zero (le : n ≤ W) (x : BitVec W) :
    (x.extractLsb' 0 n).toInt = x.toInt.bmod (2 ^ n) := by
  rw [← BitVec.setWidth_eq_extractLsb' le, ← BitVec.signExtend_eq_setWidth_of_le x le,
    BitVec.toInt_signExtend_eq_toInt_bmod_of_le x le]

/-- A value in the signed range is not changed by the reduction modulo `2 ^ n`. -/
theorem bmod_two_pow_of_inRange {v : Int} (pos : 0 < n) (lower : -2 ^ (n - 1) ≤ v) (upper : v ≤ 2 ^ (n - 1) - 1) :
    v.bmod (2 ^ n) = v := by
  obtain ⟨k, rfl⟩ : ∃ k, n = k + 1 := ⟨n - 1, by omega⟩
  rw [Nat.add_sub_cancel] at lower upper
  apply Int.bmod_eq_of_le_mul_two <;> push_cast <;> omega

/-- Law (b): no wrap-around. -/
theorem toInt_saturate (pos : 0 < n) (le : n ≤ W) (x : BitVec W) :
    (saturate n x).toInt = min (max x.toInt (-2 ^ (n - 1))) (2 ^ (n - 1) - 1) := by
  have room : (0 : Int) < 2 ^ (n - 1) := by positivity
  rw [saturate]
  split_ifs with above below
  · rw [BitVec.toInt_intMax]
    omega
  · rw [BitVec.toInt_intMin_of_pos pos]
    omega
  · rw [toInt_extractLsb'_zero le, bmod_two_pow_of_inRange pos (by omega) (by omega)]
    omega

/-- Law (c): the sign is kept, since zero lies inside the narrower range. -/
theorem msb_saturate (pos : 0 < n) (le : n ≤ W) (x : BitVec W) : (saturate n x).msb = x.msb := by
  have room : (0 : Int) < 2 ^ (n - 1) := by positivity
  rw [BitVec.msb_eq_toInt, BitVec.msb_eq_toInt, toInt_saturate pos le, decide_eq_decide]
  omega

/-- Law (d): the clamp is monotone. -/
theorem saturate_monotone (pos : 0 < n) (le : n ≤ W) {x y : BitVec W} (h : x.toInt ≤ y.toInt) :
    (saturate n x).toInt ≤ (saturate n y).toInt := by
  rw [toInt_saturate pos le, toInt_saturate pos le]
  exact min_le_min_right _ (max_le_max_right _ h)

/-- Law (e): a sign-extended value has the signed value of the narrow one, which is in range. -/
theorem saturate_signExtend (pos : 0 < n) (le : n ≤ W) (b : BitVec n) : saturate n (b.signExtend W) = b := by
  apply BitVec.eq_of_toInt_eq
  rw [toInt_saturate pos le, BitVec.toInt_signExtend_of_le le, max_eq_left b.le_toInt, min_eq_left BitVec.toInt_le]

/-- A signed value is its upper bits' signed value above its lower bits. -/
theorem toInt_eq_slices {k : Nat} (pos : 0 < k) (x : BitVec (k + n)) :
    x.toInt = 2 ^ n * (x.extractLsb' n k).toInt + (x.extractLsb' 0 n).toNat := by
  have parts : x.extractLsb' n k ++ x.extractLsb' 0 n = x := BitVec.extractLsb'_append_extractLsb'
  have value := BitVec.toInt_append (x := x.extractLsb' n k) (y := x.extractLsb' 0 n)
  simpa [parts, pos.ne'] using value

/-- A value is in the range of `n + 1` signed bits when its bits from bit `n` on are all zeros or all ones. -/
theorem inRange_iff_topBits {k : Nat} (pos : 0 < k) (x : BitVec (k + n)) :
    (-2 ^ n ≤ x.toInt ∧ x.toInt < 2 ^ n) ↔
      x.extractLsb' n k = 0 ∨ x.extractLsb' n k = BitVec.allOnes k := by
  have low := (x.extractLsb' 0 n).isLt
  zify at low
  have top : (-2 ^ n ≤ x.toInt ∧ x.toInt < 2 ^ n) ↔
      (x.extractLsb' n k).toInt = 0 ∨ (x.extractLsb' n k).toInt = -1 := by
    rw [toInt_eq_slices pos x]
    constructor
    · rintro ⟨lower, upper⟩
      have : -2 < (x.extractLsb' n k).toInt := by nlinarith
      have : (x.extractLsb' n k).toInt < 1 := by nlinarith
      omega
    · rintro (zero | ones)
      · rw [zero]; omega
      · rw [ones]; omega
  rw [top, ← BitVec.toInt_inj, ← BitVec.toInt_inj, BitVec.toInt_allOnes, if_pos pos]
  simp

end saturation

/-- Settles O11: the branches of the definition, and the range read off the top bits. -/
theorem wordSaturatesToByte : Obligations.WordSaturatesToByte := by
  intro w
  refine ⟨fun above => if_pos above, fun below => ?_, fun ⟨lower, upper⟩ => ?_, ?_⟩
  · rw [satSW2SB, if_neg (by omega), if_pos below]
  · rw [satSW2SB, if_neg (by omega), if_neg (by omega)]
  · rw [← inRange_iff_topBits (n := 7) (k := 9) (by decide) w]
    omega

/-- Settles O12: the branches of the definition, and the range read off the top bits. -/
theorem dwordSaturatesToWord : Obligations.DwordSaturatesToWord := by
  intro d
  refine ⟨fun above => if_pos above, fun below => ?_, fun ⟨lower, upper⟩ => ?_, ?_⟩
  · rw [satSD2SW, if_neg (by omega), if_pos below]
  · rw [satSD2SW, if_neg (by omega), if_neg (by omega)]
  · rw [← inRange_iff_topBits (n := 15) (k := 17) (by decide) d]
    omega

/-- Settles O13: the laws of `saturate`, at 8 bits of a word and at 16 of a doubleword. -/
theorem saturationLaws : Obligations.SaturationLaws := by
  simp only [Obligations.SaturationLaws, satSW2SB_eq_saturate, satSD2SW_eq_saturate]
  have word : 0 < 8 ∧ 8 ≤ 16 := by decide
  have dword : 0 < 16 ∧ 16 ≤ 32 := by decide
  exact ⟨toInt_saturate word.1 word.2, toInt_saturate dword.1 dword.2,
    msb_saturate word.1 word.2, msb_saturate dword.1 dword.2,
    fun _ _ => saturate_monotone word.1 word.2, fun _ _ => saturate_monotone dword.1 dword.2,
    saturate_signExtend word.1 word.2, saturate_signExtend dword.1 dword.2⟩

/-! ## Slices of slices -/

theorem extractLsb'_extractLsb' {N : Nat} (x : BitVec N) {pos len start size : Nat} (inside : pos + len ≤ size) :
    (x.extractLsb' start size).extractLsb' pos len = x.extractLsb' (start + pos) len := by
  apply BitVec.eq_of_getLsbD_eq
  intro k hk
  simp [hk, show pos + k < size by omega, Nat.add_assoc]

/-! ## The elements of the packs (rules R92 to R94) -/

/-- Settles O14: the elements of the two halves. -/
theorem pack64Elements : Obligations.Pack64Elements := fun a b =>
  ⟨fun _ hi => ⟨extractLsb'_pack64WB_low a b hi, extractLsb'_pack64WB_high a b hi⟩,
    fun _ hi => ⟨extractLsb'_pack64DW_low a b hi, extractLsb'_pack64DW_high a b hi⟩⟩

/-- If `narrow` narrows the `m` elements of a quadword in order, `narrow128` does so with the `m + m` elements
of two. -/
theorem extractLsb'_narrow128 {w W m : Nat} {narrow : BitVec 64 → BitVec 32} {sat : BitVec W → BitVec w}
    (hw : w * m = 32) (hW : W * m = 64)
    (element : ∀ (q : BitVec 64), ∀ i < m, (narrow q).extractLsb' (w * i) w = sat (q.extractLsb' (W * i) W))
    (a : BitVec 128) {i : Nat} (hi : i < m + m) :
    (narrow128 narrow a).extractLsb' (w * i) w = sat (a.extractLsb' (W * i) W) := by
  have inside : ∀ j < m, w * j + w ≤ 32 ∧ W * j + W ≤ 64 := fun j hj =>
    ⟨hw ▸ Nat.mul_le_mul_left w hj, hW ▸ Nat.mul_le_mul_left W hj⟩
  rw [narrow128]
  obtain lower | ⟨j, rfl⟩ : i < m ∨ ∃ j, i = m + j := (Nat.lt_or_ge i m).imp_right Nat.exists_eq_add_of_le
  · rw [BitVec.extractLsb'_append_eq_of_add_le (inside i lower).1, element _ i lower,
      extractLsb'_extractLsb' a (inside i lower).2, Nat.zero_add]
  · have hj : j < m := by omega
    rw [Nat.mul_add, Nat.mul_add, hw, hW, BitVec.extractLsb'_append_eq_of_le (by omega), Nat.add_sub_cancel_left,
      element _ j hj, extractLsb'_extractLsb' a (inside j hj).2]

theorem extractLsb'_narrow128_narrowWB (a : BitVec 128) {i : Nat} (hi : i < 8) :
    (narrow128 narrowWB a).extractLsb' (8 * i) 8 = satSW2SB (a.extractLsb' (16 * i) 16) :=
  extractLsb'_narrow128 (m := 4) rfl rfl (fun q _ hj => extractLsb'_narrowWB q hj) a hi

theorem extractLsb'_narrow128_narrowDW (a : BitVec 128) {i : Nat} (hi : i < 4) :
    (narrow128 narrowDW a).extractLsb' (16 * i) 16 = satSD2SW (a.extractLsb' (32 * i) 32) :=
  extractLsb'_narrow128 (m := 2) rfl rfl (fun q _ hj => extractLsb'_narrowDW q hj) a hi

theorem extractLsb'_pack128WB_low (a b : BitVec 128) {i : Nat} (hi : i < 8) :
    (pack128WB a b).extractLsb' (8 * i) 8 = satSW2SB (a.extractLsb' (16 * i) 16) := by
  rw [pack128WB, BitVec.extractLsb'_append_eq_of_add_le (by omega), extractLsb'_narrow128_narrowWB a hi]

theorem extractLsb'_pack128WB_high (a b : BitVec 128) {i : Nat} (hi : i < 8) :
    (pack128WB a b).extractLsb' (64 + 8 * i) 8 = satSW2SB (b.extractLsb' (16 * i) 16) := by
  rw [pack128WB, BitVec.extractLsb'_append_eq_of_le (by omega), Nat.add_sub_cancel_left,
    extractLsb'_narrow128_narrowWB b hi]

theorem extractLsb'_pack128DW_low (a b : BitVec 128) {i : Nat} (hi : i < 4) :
    (pack128DW a b).extractLsb' (16 * i) 16 = satSD2SW (a.extractLsb' (32 * i) 32) := by
  rw [pack128DW, BitVec.extractLsb'_append_eq_of_add_le (by omega), extractLsb'_narrow128_narrowDW a hi]

theorem extractLsb'_pack128DW_high (a b : BitVec 128) {i : Nat} (hi : i < 4) :
    (pack128DW a b).extractLsb' (64 + 16 * i) 16 = satSD2SW (b.extractLsb' (32 * i) 32) := by
  rw [pack128DW, BitVec.extractLsb'_append_eq_of_le (by omega), Nat.add_sub_cancel_left,
    extractLsb'_narrow128_narrowDW b hi]

/-- Settles O15: the elements of the two halves. -/
theorem pack128Elements : Obligations.Pack128Elements := fun a b =>
  ⟨fun _ hi => ⟨extractLsb'_pack128WB_low a b hi, extractLsb'_pack128WB_high a b hi⟩,
    fun _ hi => ⟨extractLsb'_pack128DW_low a b hi, extractLsb'_pack128DW_high a b hi⟩⟩

/-- The lanes of a value that is put together from two. -/
theorem extractLsb'_lanes (lane : Nat → BitVec 128) {l : Nat} (hl : l < 2) :
    (lane 128 ++ lane 0).extractLsb' (128 * l) 128 = lane (128 * l) := by
  interval_cases l
  · exact BitVec.extractLsb'_append_eq_right
  · exact BitVec.extractLsb'_append_eq_left

theorem extractLsb'_pack256WB_lane (a b : BitVec 256) {l : Nat} (hl : l < 2) :
    (pack256WB a b).extractLsb' (128 * l) 128 =
      pack128WB (a.extractLsb' (128 * l) 128) (b.extractLsb' (128 * l) 128) :=
  extractLsb'_lanes (fun start => pack128WB (a.extractLsb' start 128) (b.extractLsb' start 128)) hl

theorem extractLsb'_pack256DW_lane (a b : BitVec 256) {l : Nat} (hl : l < 2) :
    (pack256DW a b).extractLsb' (128 * l) 128 =
      pack128DW (a.extractLsb' (128 * l) 128) (b.extractLsb' (128 * l) 128) :=
  extractLsb'_lanes (fun start => pack128DW (a.extractLsb' start 128) (b.extractLsb' start 128)) hl

/-- An element of the result is one of its lane, and the source's element one of the source's lane. -/
theorem element_of_lane {w W lane pos srcPos : Nat} {sat : BitVec W → BitVec w} {r x : BitVec 256}
    {packed : BitVec 128} (hlane : r.extractLsb' lane 128 = packed) (inside : pos + w ≤ 128)
    (srcInside : srcPos + W ≤ 128)
    (element : packed.extractLsb' pos w = sat ((x.extractLsb' lane 128).extractLsb' srcPos W)) :
    r.extractLsb' (lane + pos) w = sat (x.extractLsb' (lane + srcPos) W) := by
  rw [← extractLsb'_extractLsb' r inside, hlane, element, extractLsb'_extractLsb' x srcInside]

/-- Settles O16: the lanes are those of the definition, and their elements those of the 128-bit packs. -/
theorem pack256Elements : Obligations.Pack256Elements := by
  intro a b l hl
  have laneWB := extractLsb'_pack256WB_lane a b hl
  have laneDW := extractLsb'_pack256DW_lane a b hl
  refine ⟨laneWB, laneDW, fun i hi => ?_, fun i hi => ?_⟩
  · rw [Nat.add_assoc]
    exact ⟨element_of_lane laneWB (by omega) (by omega) (extractLsb'_pack128WB_low _ _ hi),
      element_of_lane laneWB (by omega) (by omega) (extractLsb'_pack128WB_high _ _ hi)⟩
  · rw [Nat.add_assoc]
    exact ⟨element_of_lane laneDW (by omega) (by omega) (extractLsb'_pack128DW_low _ _ hi),
      element_of_lane laneDW (by omega) (by omega) (extractLsb'_pack128DW_high _ _ hi)⟩

/-! ## The step runs what it decodes (rules R57 and R96) -/

/-- Bytes that decode as a form do so whatever follows them: the decoder looks at no byte after the form's own. -/
theorem decode_append_of_form {m : Mode} {bytes rest : List Byte} {i : Instr} (h : decode m bytes = .form i rest)
    (more : List Byte) : decode m (bytes ++ more) = .form i (rest ++ more) := by
  obtain ⟨wf, spelled⟩ := encodeWritesDecoded m bytes i rest h
  rw [← spelled, List.append_assoc]
  exact decodeReadsEncode m i (rest ++ more) wf

/-- Settles O56: the fetch begins with the bytes at `pc`, and those after them make no difference. -/
theorem stepRunsDecoded : Obligations.StepRunsDecoded := by
  intro s m bs i rest mode short code decoded
  obtain ⟨more, fetched⟩ := fetchBytes_of_codeAt code short
  have form := decode_append_of_form decoded more
  rw [← fetched] at form
  simp only [step, mode, fetchDecode, form]

end Sys2Proof.Machine

/-!
PROOFS (spec/41_pack_mmx.md): what the MMX forms answer. A source operand that can be read is what the instruction
reads; the execution skeleton then runs to its end, whichever pack function it is given.
-/

namespace Sys2Proof.Machine

/-! ## Reading the source operand (rules R42, R43 and R96 step 4) -/

/-- A memory operand that reads as `bs` is read as their little-endian value, whatever its size and alignment rule. -/
theorem memOperand_of_memOperandIs {s : State} {m : Mode} {ps : List LegacyPrefix} {ilen n : Nat} {align16 : Bool}
    {mo : MemOperand} {bs : List Byte} (pos : 0 < n) (operand : MemOperandIs s m ps ilen n align16 mo bs) :
    memOperand s m ps ilen n align16 mo = .ok (leValue (8 * n) bs) := by
  obtain ⟨a, size, readable⟩ := operand
  simp only [memOperand, size]
  exact memReadAnswersMappedBytes s m _ _ n align16 bs pos readable

/-- The MMX source operand is read. -/
theorem mmSource_of_mmOperandIs {s : State} {m : Mode} {ps : List LegacyPrefix} {ilen : Nat} {src : Rm 3} {b : Quad}
    (operand : MmOperandIs s m ps ilen src b) : mmSource s m ps ilen src = .ok b := by
  cases src with
  | reg r =>
    obtain rfl : b = s.readMm r := operand
    rfl
  | mem mo =>
    obtain ⟨bs, reads, rfl⟩ := operand
    exact memOperand_of_memOperandIs (by decide) reads

/-! ## The MMX forms (rules R27, R100 and R101) -/

/-- A ready MMX form whose source can be read runs to its end: it writes the packed value, then `pc` moves. -/
theorem runMm_of_ready {e : LegacyEnc} {d : BitVec 3} {src : Rm 3} {s : State} {m : Mode} {b : Quad}
    (ready : FormReady .mmx s m) (operand : MmOperandIs s m e.prefixes (legacyLength e src) src b)
    (pack : BitVec 64 → BitVec 64 → BitVec 64) :
    runMm pack e d src s = .ok ((s.writeMm d (pack (s.readMm d) b)).retire m (legacyLength e src)) := by
  simp only [runMm, admitForm_of_formReady ready, mmSource_of_mmOperandIs operand]

/-- Settles O18: the state written out is that of the MMX write, with its x87 effects, and the end of the
instruction. -/
theorem packsswbMmResult : Obligations.PacksswbMmResult := by
  intro e d src s m b ready operand
  exact congrArg (finish s) (runMm_of_ready ready operand pack64WB)

/-- Settles O19, as O18 with the other pack function. -/
theorem packssdwMmResult : Obligations.PackssdwMmResult := by
  intro e d src s m b ready operand
  exact congrArg (finish s) (runMm_of_ready ready operand pack64DW)

end Sys2Proof.Machine

/-!
PROOFS (spec/42_pack_sse2.md): what the legacy SSE forms answer. As for the MMX forms, the source operand is read and
the execution skeleton runs to its end; the write keeps bits 255:128 (rule R23).
-/

namespace Sys2Proof.Machine

/-! ## Reading the 128-bit source operand (rules R42, R43 and R96 step 4) -/

/-- The XMM source operand is read, whether or not its class wants memory aligned. -/
theorem xmmSource_of_xmmOperandIs {s : State} {m : Mode} {ps : List LegacyPrefix} {ilen : Nat} {align16 : Bool}
    {src : Rm 4} {b : XmmVal} (operand : XmmOperandIs s m ps ilen align16 src b) :
    xmmSource s m ps ilen align16 src = .ok b := by
  cases src with
  | reg r =>
    obtain rfl : b = s.readXmm r := operand
    rfl
  | mem mo =>
    obtain ⟨bs, reads, rfl⟩ := operand
    exact memOperand_of_memOperandIs (by decide) reads

/-! ## The legacy SSE forms (rules R23, R105 and R106) -/

/-- A ready legacy SSE form whose source can be read runs to its end: it writes the packed value below the old upper
half, then `pc` moves. -/
theorem runSse_of_ready {e : LegacyEnc} {d : BitVec 4} {src : Rm 4} {s : State} {m : Mode} {b : XmmVal}
    (ready : FormReady .sse2 s m) (operand : XmmOperandIs s m e.prefixes (legacyLength e src) true src b)
    (pack : BitVec 128 → BitVec 128 → BitVec 128) :
    runSse pack e d src s = .ok ((s.writeXmm d (pack (s.readXmm d) b)).retire m (legacyLength e src)) := by
  simp only [runSse, admitForm_of_formReady ready, xmmSource_of_xmmOperandIs operand]

/-- Settles O20: the state written out is that of the write to `xmm[d]`, which keeps the upper half, and the end of
the instruction. -/
theorem packsswbXmmResult : Obligations.PacksswbXmmResult := by
  intro e d src s m b ready operand
  exact congrArg (finish s) (runSse_of_ready ready operand pack128WB)

/-- Settles O21, as O20 with the other pack function. -/
theorem packssdwXmmResult : Obligations.PackssdwXmmResult := by
  intro e d src s m b ready operand
  exact congrArg (finish s) (runSse_of_ready ready operand pack128DW)

end Sys2Proof.Machine

/-!
PROOFS (spec/43_pack_vex128.md): what the VEX.128 forms answer. The source operand is read as by the legacy SSE forms,
but needs no alignment; the write clears bits 255:128 (rule R23).
-/

namespace Sys2Proof.Machine

/-! ## The VEX.128 forms (rules R23, R110 and R111) -/

/-- A ready VEX.128 form whose source can be read runs to its end: it writes the packed value, zero-extended, then
`pc` moves. The sources are read in the old state, so the destination may be one of them. -/
theorem runVex128_of_ready {e : VexEnc} {d v : BitVec 4} {src : Rm 4} {s : State} {m : Mode} {b : XmmVal}
    (ready : FormReady .vex128 s m) (operand : XmmOperandIs s m e.prefixes (vexLength e src) false src b)
    (pack : BitVec 128 → BitVec 128 → BitVec 128) :
    runVex128 pack e d v src s =
      .ok ((s.writeXmmZeroUpper d (pack (s.readXmm v) b)).retire m (vexLength e src)) := by
  simp only [runVex128, admitForm_of_formReady ready, xmmSource_of_xmmOperandIs operand]

/-- Settles O22: the state written out is that of the write to `ymm[d]`, which clears the upper half, and the end of
the instruction. -/
theorem vpacksswbXmmResult : Obligations.VpacksswbXmmResult := by
  intro e d v src s m b ready operand
  exact congrArg (finish s) (runVex128_of_ready ready operand pack128WB)

/-- Settles O23, as O22 with the other pack function. -/
theorem vpackssdwXmmResult : Obligations.VpackssdwXmmResult := by
  intro e d v src s m b ready operand
  exact congrArg (finish s) (runVex128_of_ready ready operand pack128DW)

end Sys2Proof.Machine

/-!
PROOFS (spec/44_pack_vex256.md): what the VEX.256 forms answer. The source operand is a whole YMM register or 32 bytes
of memory of any alignment; the write replaces all 256 bits (rule R23).
-/

namespace Sys2Proof.Machine

/-! ## Reading the 256-bit source operand (rules R42, R43 and R96 step 4) -/

/-- The YMM source operand is read. -/
theorem ymmSource_of_ymmOperandIs {s : State} {m : Mode} {ps : List LegacyPrefix} {ilen : Nat} {src : Rm 4}
    {b : YmmVal} (operand : YmmOperandIs s m ps ilen src b) : ymmSource s m ps ilen src = .ok b := by
  cases src with
  | reg r =>
    obtain rfl : b = s.readYmm r := operand
    rfl
  | mem mo =>
    obtain ⟨bs, reads, rfl⟩ := operand
    exact memOperand_of_memOperandIs (by decide) reads

/-! ## The VEX.256 forms (rules R23, R115 and R116) -/

/-- A ready VEX.256 form whose source can be read runs to its end: it writes the packed value to the whole register,
then `pc` moves. The sources are read in the old state, so the destination may be one of them. -/
theorem runVex256_of_ready {e : VexEnc} {d v : BitVec 4} {src : Rm 4} {s : State} {m : Mode} {b : YmmVal}
    (ready : FormReady .vex256 s m) (operand : YmmOperandIs s m e.prefixes (vexLength e src) src b)
    (pack : BitVec 256 → BitVec 256 → BitVec 256) :
    runVex256 pack e d v src s = .ok ((s.writeYmm d (pack (s.readYmm v) b)).retire m (vexLength e src)) := by
  simp only [runVex256, admitForm_of_formReady ready, ymmSource_of_ymmOperandIs operand]

/-- Settles O24: the state written out is that of the write to `ymm[d]` and the end of the instruction. -/
theorem vpacksswbYmmResult : Obligations.VpacksswbYmmResult := by
  intro e d v src s m b ready operand
  exact congrArg (finish s) (runVex256_of_ready ready operand pack256WB)

/-- Settles O25, as O24 with the other pack function. -/
theorem vpackssdwYmmResult : Obligations.VpackssdwYmmResult := by
  intro e d v src s m b ready operand
  exact congrArg (finish s) (runVex256_of_ready ready operand pack256DW)

end Sys2Proof.Machine

/-!
PROOFS (spec/60_exceptions.md): which exceptions the instructions raise, in which order, and what they leave. What
stops an instruction is put together once from the form checks and the memory operand; neither reads the MMX or vector
registers, and each raises its own exceptions. The statements are facts about these two parts.
-/

namespace Sys2Proof.Machine

/-! ## What stops an instruction (rule R96, steps 1 to 4) -/

/-- Why a computation stopped, if it did. -/
def stopped {α : Type} : Except Stop α → Option Stop
  | .error x => some x
  | .ok _ => none

/-- What the form checks stop at, else what stops the source operand in the mode they answer. -/
def stopIn (c : FormClass) (s : State) (operand : Mode → Option Stop) : Option Stop :=
  match admitForm c s with
  | .error x => some x
  | .ok m => operand m

/-- What stops the read of an instruction's source operand: nothing where it is a register. -/
def operandStop (i : Instr) (s : State) (m : Mode) : Option Stop :=
  match operandOf i with
  | none => none
  | some (mo, prefixes, n) => stopped (memOperand s m prefixes i.ilen n (formClass i).align16 mo)

/-- What stops an instruction, if it does not complete. -/
def stopOf (i : Instr) (s : State) : Option Stop := stopIn (formClass i) s (operandStop i s)

theorem stopped_eq_some_iff {α : Type} {r : Except Stop α} {x : Stop} : stopped r = some x ↔ r = .error x := by
  cases r <;> simp [stopped]

theorem stopped_eq_none_iff {α : Type} {r : Except Stop α} : stopped r = none ↔ ∃ a, r = .ok a := by
  cases r <;> simp [stopped]

theorem stopIn_eq_some_iff {c : FormClass} {s : State} {operand : Mode → Option Stop} {x : Stop} :
    stopIn c s operand = some x ↔
      admitForm c s = .error x ∨ ∃ m, admitForm c s = .ok m ∧ operand m = some x := by
  cases admitted : admitForm c s <;> simp [stopIn, admitted]

section skeletons

variable {s : State}

theorem stopped_runMm (pack : BitVec 64 → BitVec 64 → BitVec 64) (e : LegacyEnc) (d : BitVec 3) (src : Rm 3) :
    stopped (runMm pack e d src s) =
      stopIn .mmx s fun m => stopped (mmSource s m e.prefixes (legacyLength e src) src) := by
  cases admitted : admitForm .mmx s with
  | error x => simp only [runMm, stopIn, admitted, stopped]
  | ok m =>
    simp only [runMm, stopIn, admitted]
    cases mmSource s m e.prefixes (legacyLength e src) src <;> rfl

theorem stopped_runSse (pack : BitVec 128 → BitVec 128 → BitVec 128) (e : LegacyEnc) (d : BitVec 4) (src : Rm 4) :
    stopped (runSse pack e d src s) =
      stopIn .sse2 s fun m => stopped (xmmSource s m e.prefixes (legacyLength e src) true src) := by
  cases admitted : admitForm .sse2 s with
  | error x => simp only [runSse, stopIn, admitted, stopped]
  | ok m =>
    simp only [runSse, stopIn, admitted]
    cases xmmSource s m e.prefixes (legacyLength e src) true src <;> rfl

theorem stopped_runVex128 (pack : BitVec 128 → BitVec 128 → BitVec 128) (e : VexEnc) (d v : BitVec 4) (src : Rm 4) :
    stopped (runVex128 pack e d v src s) =
      stopIn .vex128 s fun m => stopped (xmmSource s m e.prefixes (vexLength e src) false src) := by
  cases admitted : admitForm .vex128 s with
  | error x => simp only [runVex128, stopIn, admitted, stopped]
  | ok m =>
    simp only [runVex128, stopIn, admitted]
    cases xmmSource s m e.prefixes (vexLength e src) false src <;> rfl

theorem stopped_runVex256 (pack : BitVec 256 → BitVec 256 → BitVec 256) (e : VexEnc) (d v : BitVec 4) (src : Rm 4) :
    stopped (runVex256 pack e d v src s) =
      stopIn .vex256 s fun m => stopped (ymmSource s m e.prefixes (vexLength e src) src) := by
  cases admitted : admitForm .vex256 s with
  | error x => simp only [runVex256, stopIn, admitted, stopped]
  | ok m =>
    simp only [runVex256, stopIn, admitted]
    cases ymmSource s m e.prefixes (vexLength e src) src <;> rfl

end skeletons

/-- Every instruction finishes a computation that stops for the reason `stopOf` names. -/
theorem exec_eq_finish (i : Instr) (s : State) : ∃ r, exec i s = finish s r ∧ stopped r = stopOf i s := by
  cases i with
  | packsswbMm e d src | packssdwMm e d src =>
    exact ⟨_, rfl, (stopped_runMm _ e d src).trans (by cases src <;> rfl)⟩
  | packsswbXmm e d src | packssdwXmm e d src =>
    exact ⟨_, rfl, (stopped_runSse _ e d src).trans (by cases src <;> rfl)⟩
  | vpacksswbXmm e d v src | vpackssdwXmm e d v src =>
    exact ⟨_, rfl, (stopped_runVex128 _ e d v src).trans (by cases src <;> rfl)⟩
  | vpacksswbYmm e d v src | vpackssdwYmm e d v src =>
    exact ⟨_, rfl, (stopped_runVex256 _ e d v src).trans (by cases src <;> rfl)⟩

section outcome

variable {i : Instr} {s : State}

theorem exec_of_stopOf_none (h : stopOf i s = none) : ∃ t, exec i s = .next t := by
  obtain ⟨r, run, same⟩ := exec_eq_finish i s
  obtain ⟨t, rfl⟩ := stopped_eq_none_iff.1 (same.trans h)
  exact ⟨t, run⟩

theorem exec_of_stopOf_some {x : Stop} (h : stopOf i s = some x) : exec i s = finish s (.error x) := by
  obtain ⟨r, run, same⟩ := exec_eq_finish i s
  rw [run, stopped_eq_some_iff.1 (same.trans h)]

theorem stopOf_of_exec_next {t : State} (h : exec i s = .next t) : stopOf i s = none := by
  obtain ⟨r, run, same⟩ := exec_eq_finish i s
  rw [← same, finish_next (run.symm.trans h), stopped]

theorem stopOf_of_exec_fault {f : Fault} (h : exec i s = .fault f) :
    ∃ x, stopOf i s = some (.raise x) ∧ f = raise x s := by
  obtain ⟨r, run, same⟩ := exec_eq_finish i s
  obtain ⟨x, rfl, recorded⟩ := finish_fault (run.symm.trans h)
  exact ⟨x, same.symm, recorded⟩

theorem stopOf_of_exec_refused {q : Refusal} (h : exec i s = .refused q) : stopOf i s = some (.refuse q) := by
  obtain ⟨r, run, same⟩ := exec_eq_finish i s
  rw [← same, finish_refused (run.symm.trans h), stopped]

end outcome

/-! ## The outcome does not depend on the register data (rule R120) -/

/-- The form checks read the control registers and the x87 status word, the memory operand the general registers, the
segments and memory. -/
theorem stopOf_with_registers (i : Instr) (s : State) (mm : Vector Quad 8) (ymm : Vector YmmVal 16) :
    stopOf i { s with mm := mm, ymm := ymm } = stopOf i s := rfl

theorem vector_raise (x : Exception) (s s' : State) : (raise x s').vector = (raise x s).vector := by
  cases x <;> rfl

theorem errorCode_raise (x : Exception) (s s' : State) : (raise x s').errorCode = (raise x s).errorCode := by
  cases x <;> rfl

/-- Settles O30: what stops the instruction is the same, and with it the kind of outcome. -/
theorem outcomeIgnoresRegisterData : Obligations.OutcomeIgnoresRegisterData := by
  intro i s mm ymm
  have same := stopOf_with_registers i s mm ymm
  refine ⟨fun t completed => ?_, fun f faulted => ?_, fun r refused => ?_⟩
  · exact exec_of_stopOf_none (same.trans (stopOf_of_exec_next completed))
  · obtain ⟨x, raised, rfl⟩ := stopOf_of_exec_fault faulted
    exact ⟨_, exec_of_stopOf_some (same.trans raised), vector_raise x s _, errorCode_raise x s _⟩
  · exact exec_of_stopOf_some (same.trans (stopOf_of_exec_refused refused))

/-! ## The exceptions of the form checks, in their order (rules R121 to R123) -/

section checks

variable {c : FormClass} {s : State}

theorem formException_ud (missing : c.hasFlag s.features = false ∨ c.enabled s = false) :
    formException c s = some .ud := by
  rcases missing with noFlag | notEnabled
  · simp [formException, noFlag]
  · simp [formException, notEnabled]

theorem formException_nm (flag : c.hasFlag s.features = true) (enabled : c.enabled s = true) (ts : s.ts = true) :
    formException c s = some .nm := by
  simp [formException, flag, enabled, ts]

theorem formException_mf (flag : s.features.hasMmx = true) (enabled : s.enMmx = true) (ts : s.ts = false)
    (pending : s.x87Pending = true) : formException .mmx s = some .mf := by
  simp [formException, FormClass.hasFlag, FormClass.enabled, flag, enabled, ts, pending]

theorem formException_eq_some {x : Exception} (h : formException c s = some x) :
    x = .ud ∨ x = .nm ∨ (c = .mmx ∧ x = .mf) := by
  unfold formException at h
  split_ifs at h with denied taskSwitched pending
  · exact .inl (Option.some.inj h).symm
  · exact .inr (.inl (Option.some.inj h).symm)
  · simp only [Bool.and_eq_true, decide_eq_true_eq] at pending
    exact .inr (.inr ⟨pending.1, (Option.some.inj h).symm⟩)

/-- Outside the modes of the model the only exception is the #UD of a VEX form (rule R121 row (f)). -/
theorem admitMode_raise {x : Exception} (h : admitMode c s = .error (.raise x)) : x = .ud := by
  unfold admitMode at h
  split at h
  · cases h
  · split_ifs at h
    · cases h
      rfl
    · cases h

/-- The checks before the operands raise only #UD, #NM and, for an MMX form, #MF. -/
theorem admitForm_error_raise {x : Exception} (h : admitForm c s = .error (.raise x)) :
    x = .ud ∨ x = .nm ∨ (c = .mmx ∧ x = .mf) := by
  unfold admitForm at h
  split at h
  · next stop =>
    cases h
    exact .inl (admitMode_raise stop)
  · split at h
    · next raised =>
      cases h
      exact formException_eq_some raised
    · cases h

/-- In real-address and virtual-8086 mode a VEX form raises #UD (rule R121 row (f)). -/
theorem admitForm_vex_of_not_protected (mode : s.cpuMode = .real ∨ s.cpuMode = .virtual8086)
    (vex : c.isVex = true) : admitForm c s = .error (.raise .ud) := by
  rcases mode with mode | mode <;> simp [admitForm, admitMode, State.runMode, mode, vex]

/-- In real-address and virtual-8086 mode any other form is refused (decision D1). -/
theorem admitForm_legacy_of_not_protected (mode : s.cpuMode = .real ∨ s.cpuMode = .virtual8086)
    (legacy : c.isVex = false) : admitForm c s = .error (.refuse (.modeNotModelled s.cpuMode)) := by
  rcases mode with mode | mode <;> simp [admitForm, admitMode, State.runMode, mode, legacy]

end checks

/-- In a mode the model runs, the exception that the form checks find is raised. -/
theorem exec_of_formException {i : Instr} {s : State} {m : Mode} {x : Exception} (mode : s.runMode = .ok m)
    (h : formException (formClass i) s = some x) : exec i s = .fault (raise x s) :=
  exec_of_admitForm_error (admitForm_raise mode h)

/-- Settles O34: #UD is the first of the form checks. -/
theorem missingFeatureIsUndefined : Obligations.MissingFeatureIsUndefined := by
  intro i s m mode missing
  exact exec_of_formException mode (formException_ud missing)

/-- Settles O37: #NM is the second of the form checks. -/
theorem taskSwitchedIsNotAvailable : Obligations.TaskSwitchedIsNotAvailable := by
  intro i s m mode flag enabled ts
  exact exec_of_formException mode (formException_nm flag enabled ts)

/-- Settles O35: in real-address and virtual-8086 mode the form checks stop by the class; the other modes outside the
model are refused as in O36. -/
theorem formsOutsideProtectedMode : Obligations.FormsOutsideProtectedMode := by
  intro i s
  have ⟨_, other, _⟩ := unmodelledStatesRefused i s
  refine ⟨fun mode => ⟨fun vex => ?_, fun legacy => ?_⟩, other⟩
  · exact exec_of_admitForm_error (admitForm_vex_of_not_protected mode vex)
  · exact exec_of_admitForm_error (admitForm_legacy_of_not_protected mode legacy)

/-! ## The exceptions of a memory operand (rules R124 to R126) -/

section operand

variable {s : State} {m : Mode} {n : Nat} {align16 : Bool} {x : Exception}

theorem memReadBytes_error_raise {seg : Seg} {ea : Quad}
    (h : memReadBytes s m seg ea n align16 = .error (.raise x)) :
    x = .ss ∨ x = .gp ∨ ∃ code addr, x = .pf code addr := by
  unfold memReadBytes at h
  split at h
  · next found =>
    cases h
    exact (operandFault_some found).imp_right .inl
  · split_ifs at h
    · cases h
    · split at h
      · cases h
        exact .inr (.inr ⟨_, _, rfl⟩)
      · cases h

/-- A memory operand raises only #SS(0), #GP(0) and #PF. -/
theorem memOperand_error_raise {ps : List LegacyPrefix} {ilen : Nat} {mo : MemOperand}
    (h : memOperand s m ps ilen n align16 mo = .error (.raise x)) :
    x = .ss ∨ x = .gp ∨ ∃ code addr, x = .pf code addr := by
  unfold memOperand at h
  split at h
  · cases h
  · unfold memRead at h
    split at h
    · next stop =>
      cases h
      exact memReadBytes_error_raise stop
    · cases h

theorem operandStop_raise {i : Instr} (h : operandStop i s m = some (.raise x)) :
    x = .ss ∨ x = .gp ∨ ∃ code addr, x = .pf code addr := by
  unfold operandStop at h
  split at h
  · cases h
  · exact memOperand_error_raise (stopped_eq_some_iff.1 h)

theorem operandStop_of_srcIsReg {i : Instr} (h : srcIsReg i = true) : operandStop i s m = none := by
  have noMemory : operandOf i = none := by
    cases i with
    | packsswbMm e d src | packssdwMm e d src | packsswbXmm e d src | packssdwXmm e d src
    | vpacksswbXmm e d v src | vpackssdwXmm e d v src | vpacksswbYmm e d v src | vpackssdwYmm e d v src =>
      cases src with
      | reg r => rfl
      | mem mo => cases h
  simp only [operandStop, noMemory]

/-- A violation through SS of a misaligned operand is #SS(0) or #GP(0), as the free value says (rule R128 item 5). -/
theorem operandFault_ss_misaligned {ea : Quad} (violated : SegmentViolated s m .ss ea n)
    (misaligned : Misaligned s m .ss ea align16) :
    operandFault s m .ss ea n align16 = some .ss ∨ operandFault s m .ss ea n align16 = some .gp := by
  simp only [operandFault, (segmentViolation_iff s m .ss ea n).2 violated,
    (alignViolation_iff s m .ss ea align16).2 misaligned, if_true]
  cases Config.reportsStackFault s.openChoices (linearAddr s m .ss ea) with
  | true => exact .inl rfl
  | false => exact .inr rfl

end operand

/-- What steps 2 to 4 of rule R43 find at the operand of a ready instruction is the instruction's fault. -/
theorem exec_of_operandFault {i : Instr} {s : State} {m : Mode} {seg : Seg} {ea : Quad} {x : Exception}
    (ready : FormReady (formClass i) s m) (target : memTarget i s m = some (seg, ea))
    (h : operandFault s m seg ea (formClass i).operandBytes (formClass i).align16 = some x) :
    exec i s = .fault (raise x s) :=
  exec_of_memReadBytes_error ready target (memReadBytes_raise h)

/-- Settles O41: steps 2 to 4 of rule R43 raise one of the two. -/
theorem stackAndAlignmentViolation : Obligations.StackAndAlignmentViolation := by
  intro i s m ea ready cls target violated misaligned
  have fault : operandFault s m .ss ea (formClass i).operandBytes (formClass i).align16 = some .ss ∨
      operandFault s m .ss ea (formClass i).operandBytes (formClass i).align16 = some .gp := by
    rw [cls]
    exact operandFault_ss_misaligned violated ⟨rfl, misaligned⟩
  exact fault.imp (exec_of_operandFault ready target) (exec_of_operandFault ready target)

/-! ## What an instruction can raise, and what a fault leaves (rules R123, R128 and R130) -/

/-- The exception of an instruction comes from the form checks or from its source operand. -/
theorem exec_fault {i : Instr} {s : State} {f : Fault} (h : exec i s = .fault f) :
    ∃ x, f = raise x s ∧
      ((x = .ud ∨ x = .nm ∨ (formClass i = .mmx ∧ x = .mf)) ∨ ∃ m, operandStop i s m = some (.raise x)) := by
  obtain ⟨x, raised, recorded⟩ := stopOf_of_exec_fault h
  refine ⟨x, recorded, ?_⟩
  rcases stopIn_eq_some_iff.1 raised with notAdmitted | ⟨m, -, atOperand⟩
  · exact .inl (admitForm_error_raise notAdmitted)
  · exact .inr ⟨m, atOperand⟩

/-- A step faults at the fetch or in the instruction it fetched. -/
theorem step_fault {s : State} {f : Fault} (h : step s = .fault f) :
    (∃ x, f = raise x s) ∨ ∃ i, exec i s = .fault f := by
  unfold step at h
  split at h
  · cases h
  · split at h
    · obtain ⟨x, -, recorded⟩ := finish_fault h
      exact .inl ⟨x, recorded⟩
    · exact .inr ⟨_, h⟩

/-- Settles O38: #MF is the third of the form checks, which only an MMX form has; the operand does not raise it, and
the pending bit is among those a completed instruction keeps. -/
theorem pendingX87StopsMmxForms : Obligations.PendingX87StopsMmxForms := by
  refine ⟨fun i s m mode cls flag enabled ts pending => ?_, fun i s u notMmx faulted => ?_,
    fun s t stepped quiet => ?_⟩
  · exact exec_of_formException mode (cls ▸ formException_mf flag enabled ts pending)
  · obtain ⟨x, recorded, (rfl | rfl | ⟨mmx, -⟩) | ⟨m, atOperand⟩⟩ := exec_fault faulted
    · cases recorded
    · cases recorded
    · exact notMmx mmx
    · rcases operandStop_raise atOperand with rfl | rfl | ⟨code, addr, rfl⟩ <;> cases recorded
  · obtain ⟨m, i, -, -, executed⟩ := step_next stepped
    exact (exec_frame executed).1.trans quiet

/-- Settles O44: a fault is made by `raise`, which records the state the instruction began in. -/
theorem faultsChangeNothing : Obligations.FaultsChangeNothing := by
  have atExec (i : Instr) (s : State) (f : Fault) (h : exec i s = .fault f) : f.state = s := by
    obtain ⟨x, rfl, -⟩ := exec_fault h
    exact state_raise x s
  refine ⟨atExec, fun s f h => ?_⟩
  rcases step_fault h with ⟨x, rfl⟩ | ⟨i, executed⟩
  · exact state_raise x s
  · exact atExec i s f executed

/-- Settles O45: a register operand stops nothing, so the exception is one of the form checks. -/
theorem registerFormsFaults : Obligations.RegisterFormsFaults := by
  intro i s f isReg faulted
  obtain ⟨x, rfl, (rfl | rfl | ⟨-, rfl⟩) | ⟨m, atOperand⟩⟩ := exec_fault faulted
  · exact .inl rfl
  · exact .inr (.inl rfl)
  · exact .inr (.inr rfl)
  · cases (operandStop_of_srcIsReg isReg).symm.trans atOperand

end Sys2Proof.Machine

/-!
PROOFS (spec/70_reset_and_hazards.md): the reset state does not run, and the boot sequence's stand-in `State.boot`
meets the launch premises of rule R152. Each control bit that `State.boot` sets or clears has its own lemma; the
modes and the enables follow from the bits.
-/

namespace Sys2Proof.Machine

/-! ## Reset (rule R150) -/

@[simp] theorem State.reset_cpuMode : State.reset.cpuMode = .real := rfl

/-- Settles O53: the reset state is in real-address mode, which does not run. -/
theorem resetRunsNoForm : Obligations.ResetRunsNoForm :=
  step_of_runMode_error (State.runMode_of_cpuMode (by simp) (by simp))

/-! ## States that run (premises `L_mode` and `L_quiet` of rule R152) -/

theorem State.runMode_of_long64 {s : State} (mode : s.cpuMode = .long64) (noTrap : s.tf = false)
    (unarmed : s.breakpointsArmed = false) : s.runMode = .ok .m64 := by
  simp [State.runMode, mode, noTrap, unarmed]

/-! ## The control bits after the boot sequence (rule R151) -/

section boot
variable (s : State)

@[simp] theorem State.boot_cr0PE : s.boot.cr0PE = true := by simp [State.cr0PE]
@[simp] theorem State.boot_cr0EM : s.boot.cr0EM = false := by simp [State.cr0EM]
@[simp] theorem State.boot_ts : s.boot.ts = false := by simp [State.ts]
@[simp] theorem State.boot_cr0AM : s.boot.cr0AM = false := by simp [State.cr0AM]
@[simp] theorem State.boot_osfxsr : s.boot.osfxsr = true := by simp [State.osfxsr]
@[simp] theorem State.boot_osxsave : s.boot.osxsave = true := by simp [State.osxsave]
@[simp] theorem State.boot_tf : s.boot.tf = false := by simp [State.tf]
@[simp] theorem State.boot_vm : s.boot.vm = false := by simp [State.vm]
@[simp] theorem State.boot_lma : s.boot.lma = true := by simp [State.lma]
@[simp] theorem State.boot_x87Pending : s.boot.x87Pending = false := by simp [State.x87Pending]

/-! ## The launch premises (rule R152) -/

theorem State.boot_cpuMode : s.boot.cpuMode = .long64 :=
  s.boot.cpuMode_eq_long64_iff.2 ⟨s.boot_cr0PE, s.boot_vm, s.boot_lma, rfl⟩

theorem State.boot_runMode : s.boot.runMode = .ok .m64 :=
  State.runMode_of_long64 s.boot_cpuMode s.boot_tf rfl

theorem State.boot_enMmx : s.boot.enMmx = true := by simp [State.enMmx]

theorem State.boot_enSse : s.boot.enSse = true := by simp [State.enSse]

theorem State.boot_enAvx : s.boot.enAvx = true :=
  s.boot.enAvx_iff.2 ⟨s.boot_osxsave, by simp, by simp⟩

theorem FormClass.enabled_boot (c : FormClass) : c.enabled s.boot = true := by
  cases c with
  | mmx => exact s.boot_enMmx
  | sse2 => exact s.boot_enSse
  | vex128 => exact s.boot_enAvx
  | vex256 => exact s.boot_enAvx

theorem State.boot_acEnabled : s.boot.acEnabled = false := by simp [State.acEnabled]

end boot

/-- Settles O54: the state after boot runs in `M64`, keeps the feature flags, enables every class, and has TS, the
pending x87 exception and AM clear. -/
theorem bootMeetsLaunchPremises : Obligations.BootMeetsLaunchPremises := by
  intro s c flag
  exact ⟨⟨s.boot_runMode, flag, c.enabled_boot s, s.boot_ts, fun _ => s.boot_x87Pending⟩, s.boot_acEnabled⟩

end Sys2Proof.Machine

/-!
PROOFS (spec/30_encoding.md section 8, decision D20; spec/95_test_vectors.md section 3.1): the loop over the prefixes
stops at a byte that may not follow the prefixes it has recorded, an MMX form refuses the REX bits it has no place for,
and the sample words are what the encoder writes.
-/

namespace Sys2Proof

/-! ## The loop over the prefixes after distinct ones (rules R82 and R86) -/

/-- The loop records distinct prefixes and the LOCK byte, if there is one among them, and goes on behind them. -/
theorem scanPrefixes_prefixBytes_append {ps : List LegacyPrefix} (distinct : prefixesDistinct ps = true)
    (lock : Option Nat) (bytes : List Byte) :
    scanPrefixes [] false (Machine.prefixBytes ps lock ++ bytes) = scanPrefixes ps lock.isSome bytes := by
  cases lock with
  | none =>
    rw [Machine.prefixBytes, scanPrefixes_prefixes (by rwa [List.nil_append]), List.nil_append, Option.isSome_none]
  | some k =>
    have split : prefixesDistinct (ps.take k ++ ps.drop k) = true := by rwa [List.take_append_drop]
    rw [Machine.prefixBytes, List.append_assoc, List.cons_append,
      scanPrefixes_prefixes (prefixesDistinct_of_append split), List.nil_append, scanPrefixes_lock,
      scanPrefixes_prefixes split, List.take_append_drop, Option.isSome_some]

/-- Bytes that the loop refuses after the prefixes are refused by the decoder. -/
theorem decode_refuse_of_scanPrefixes {ps : List LegacyPrefix} {lock : Option Nat} {bytes : List Byte}
    {why : DecodeRefusal} (distinct : prefixesDistinct ps = true)
    (refused : scanPrefixes ps lock.isSome bytes = .refuse why) (m : Mode) :
    decode m (Machine.prefixBytes ps lock ++ bytes) = .refuse why := by
  simp only [decode, scanPrefixes_prefixBytes_append distinct, refused]

theorem scanPrefixes_rep {b : Byte} (rep : prefixOfByte b = some .rep) (seen : List LegacyPrefix) (lock : Bool)
    (bytes : List Byte) : scanPrefixes seen lock (b :: bytes) = .refuse .repPrefix := by
  simp only [scanPrefixes, rep]

theorem scanPrefixes_repeated {seen : List LegacyPrefix} {p q : LegacyPrefix} (recorded : q ∈ seen)
    (same : sameKind p q = true) (lock : Bool) (bytes : List Byte) :
    scanPrefixes seen lock (p.byte :: bytes) = .refuse .repeatedPrefix := by
  have repeated : seen.any (sameKind p) = true := List.any_eq_true.2 ⟨q, recorded, same⟩
  simp only [scanPrefixes, prefixOfByte_byte, repeated, if_true]

theorem scanPrefixes_second_lock (seen : List LegacyPrefix) (bytes : List Byte) :
    scanPrefixes seen true (0xF0 :: bytes) = .refuse .repeatedPrefix := rfl

/-! ## REX bytes (rules R64 and R72, decision D20) -/

/-- A byte that opens no form is refused where the opcode is expected. -/
theorem decodeOpcode_notAForm {b : Byte} (notLegacy : b ≠ 0x0F) (notVex3 : b ≠ 0xC4) (notVex2 : b ≠ 0xC5) (m : Mode)
    (ps : List LegacyPrefix) (lock rex : Bool) (e : ExtBits) (bytes : List Byte) :
    decodeOpcode m ps lock rex e (b :: bytes) = .refuse .notAForm := by
  simp only [decodeOpcode, notLegacy, notVex3, notVex2, if_false]

/-- A REX byte that no opcode follows is refused, whatever its four bits. -/
theorem decode_misplaced_rex {ps : List LegacyPrefix} {b : Byte} (distinct : prefixesDistinct ps = true)
    (notLegacy : b ≠ 0x0F) (notVex3 : b ≠ 0xC4) (notVex2 : b ≠ 0xC5) (lock : Option Nat) (low : BitVec 4)
    (bytes : List Byte) :
    decode .m64 (Machine.prefixBytes ps lock ++ (4#4 ++ low) :: b :: bytes) = .refuse .notAForm := by
  obtain ⟨notPrefix, isRexByte⟩ := rexByte_kind_low low
  rw [decode_prefixBytes distinct notPrefix, decodeAfterPrefixes, if_pos isRexByte,
    decodeOpcode_notAForm notLegacy notVex3 notVex2]

/-- An MMX register has no place for REX.R, nor for REX.B when the operand is a register (rule R72). -/
theorem decodeLegacyOperands_mmxRexBits {ps : List LegacyPrefix} {e : ExtBits} {modrm : Byte}
    (size : LegacyPrefix.opSize ∉ ps) (bits : e.r = true ∨ (e.b = true ∧ byteTop modrm = 3)) (m : Mode) (rex : Bool)
    (op : PackOp) (rest : List Byte) :
    decodeLegacyOperands m ps rex e op (modrm :: rest) = .refuse .mmxRexBits := by
  have refused : (e.r || (e.b && decide (byteTop modrm = 3))) = true := by simpa using bits
  simp only [decodeLegacyOperands, size, refused, if_false, if_true]

/-- Settles O7: the loop over the prefixes refuses the first four, the opcode check a REX byte out of its place, and the
ModRM byte decides the REX bits of an MMX form. -/
theorem refusedEncodings : Obligations.RefusedEncodings := by
  refine ⟨fun m ps lock bytes distinct => ⟨?_, ?_, ?_, ?_, ?_⟩, ?_⟩
  · exact decode_refuse_of_scanPrefixes distinct (scanPrefixes_rep (by decide) ..) m
  · exact decode_refuse_of_scanPrefixes distinct (scanPrefixes_rep (by decide) ..) m
  · intro p q recorded same
    exact decode_refuse_of_scanPrefixes distinct (scanPrefixes_repeated recorded same ..) m
  · intro locked
    refine decode_refuse_of_scanPrefixes distinct ?_ m
    rw [Option.isSome_iff_ne_none.2 locked, scanPrefixes_second_lock]
  · rintro low b rfl notLegacy notVex3 notVex2
    exact decode_misplaced_rex distinct notLegacy notVex3 notVex2 lock low bytes
  · intro ps op w r x b modrm rest distinct size bits
    have reached := decode_rexPrefix (m := .m64) (rex := true) (e := ⟨w, r, x, b⟩) distinct ⟨fun _ => rfl, by simp⟩
      (op.byte :: modrm :: rest)
    rw [decodeLegacy, opOfByte_byte] at reached
    exact reached.trans (decodeLegacyOperands_mmxRexBits size bits ..)

/-! ## Sample words (spec/95_test_vectors.md section 3.1) -/

theorem decode_of_encode_eq {m : Mode} {i : Instr} {bytes : List Byte} (wf : wellFormed m i = true)
    (spelled : encode i = bytes) : decode m bytes = .form i [] := by
  rw [← spelled, ← List.append_nil (encode i)]
  exact decodeReadsEncode m i [] wf

/-- Settles O4: each word is what the encoder writes for the instruction it stands for. -/
theorem sampleWordsDecode : Obligations.SampleWordsDecode :=
  ⟨decode_of_encode_eq (by decide) (by decide), decode_of_encode_eq (by decide) (by decide),
    decode_of_encode_eq (by decide) (by decide), decode_of_encode_eq (by decide) (by decide)⟩

end Sys2Proof

/-!
PROOFS (spec/10_state.md section 11, rules R32 and R150 to R152): the invariant at reset, what INIT keeps, and the
model's own loader. Placing bytes boots, loads and maps the operand; the last of these leaves the loaded bytes as
they are, so the step finds them at `pc`.
-/

namespace Sys2Proof.Machine

/-! ## Reset and INIT (rule R32) -/

theorem State.reset_upperZero : State.reset.upperZero = true :=
  State.upperZero_iff.2 fun i => by rw [State.reset_readYmm]; rfl

/-- Settles O33: memory is empty, both AVX flags are set, the registers hold zero, and `pc` is FFF0H. -/
theorem resetHasInv : Obligations.ResetHasInv :=
  ⟨State.reset_mem_wf, fun _ => rfl, fun _ => State.reset_upperZero, fun _ => by decide⟩

/-- PE is clear after INIT, whatever CR0 was. -/
@[simp] theorem State.init_cr0PE (s : State) : s.init.cr0PE = false := by simp [State.cr0PE]

theorem State.init_cpuMode (s : State) : s.init.cpuMode = .real := by simp [State.cpuMode]

/-- The mask that INIT keeps of CR0 has bits 29 and 30 set, which are NW and CD (notes/assumptions/2.md). -/
theorem State.getLsbD_init_cr0 (s : State) {k : Nat} (kept : k = 29 ∨ k = 30) :
    s.init.cr0.getLsbD k = s.cr0.getLsbD k := by
  rcases kept with rfl | rfl
  · simp
  · simp

/-- Settles O55: INIT copies the register files, takes the general registers and EIP from the reset state, and keeps CD
and NW. -/
theorem initKeepsRegisterFiles : Obligations.InitKeepsRegisterFiles := fun s =>
  ⟨s.init_mm, s.init_ymm, s.init_mxcsr, s.init_ftw, s.init_xcr0, s.init_gpr, s.init_rip, s.init_eflags, s.init_cr4,
    s.init_cpuMode, s.getLsbD_init_cr0 (.inr rfl), s.getLsbD_init_cr0 (.inl rfl)⟩

/-! ## Placed bytes stand at `pc` (rules R57 and R151) -/

/-- Mapping the operand changes nothing but memory, and there it maps bytes that were not mapped. -/
theorem State.exists_mapOperand_eq (s : State) : ∃ a n, s.mapOperand = { s with mem := s.mem.fill a n } := by
  have unchanged : ∃ a n, s = { s with mem := s.mem.fill a n } := ⟨0, 0, rfl⟩
  unfold State.mapOperand
  split
  · exact unchanged
  · split
    · exact unchanged
    · split
      · exact unchanged
      · exact ⟨_, _, rfl⟩

theorem State.mapOperand_runMode (s : State) : s.mapOperand.runMode = s.runMode := by
  obtain ⟨a, n, mapped⟩ := s.exists_mapOperand_eq
  rw [mapped]
  rfl

/-- Code that stands at `pc` still stands there when the operand is mapped. -/
theorem CodeAt.mapOperand {s : State} {m : Mode} {bs : List Byte} (code : CodeAt s m bs) :
    CodeAt s.mapOperand m bs := by
  obtain ⟨a, n, mapped⟩ := s.exists_mapOperand_eq
  rw [mapped]
  intro k hk
  obtain ⟨canon, top, undenied, read⟩ := code k hk
  rw [List.getElem?_eq_getElem hk] at read ⊢
  exact ⟨canon, top, undenied, Memory.read?_fill_some a n read⟩

/-- Loaded bytes stand at `pc` when their addresses are canonical and no denial is listed for a fetch. -/
theorem codeAt_loadCode {s : State} {bs : List Byte} (short : bs.length ≤ 2 ^ 64)
    (canon : ∀ k < bs.length, canonical s.laBits (s.rip.toNat + k) = true)
    (undenied : ∀ x ∈ s.denials, x.kind ≠ .fetch) : CodeAt (s.loadCode .m64 bs) .m64 bs := fun k hk =>
  ⟨fun _ => canon k hk, by simp, fun x listed ⟨fetch, _⟩ => undenied x listed fetch,
    Memory.read?_load_self s.mem s.rip bs short hk⟩

/-- In a state that does not run, placing bytes boots, loads them at `pc` and maps the operand. -/
theorem State.place_of_runMode_error {s : State} {r : Refusal} (stopped : s.runMode = .error r) (bs : List Byte) :
    s.place bs = (s.boot.loadCode .m64 bs).mapOperand := by
  simp only [State.place, stopped]

/-! ## A word placed after reset -/

theorem length_tableWindow (nbits w : Nat) : (tableWindow nbits w).length = maxInstrBytes := by
  simp [tableWindow]

theorem decode_tableWindow {nbits w : Nat} {i : Instr} (h : decodeTableWord nbits w = some i) :
    ∃ rest, decode .m64 (tableWindow nbits w) = .form i rest := by
  unfold decodeTableWord at h
  split at h
  · next j rest decoded =>
    obtain rfl : j = i := by simpa using h
    exact ⟨rest, decoded⟩
  · cases h

theorem State.reset_place (bs : List Byte) : State.reset.place bs = (State.reset.boot.loadCode .m64 bs).mapOperand :=
  State.place_of_runMode_error (State.runMode_of_cpuMode (by simp) (by simp)) bs

theorem State.reset_place_runMode (bs : List Byte) : (State.reset.place bs).runMode = .ok .m64 := by
  rw [State.reset_place, State.mapOperand_runMode, State.loadCode_runMode, State.boot_runMode]

/-- The bytes of one instruction placed after reset stand at FFF0H, below the canonical bound and without denials. -/
theorem codeAt_reset_place {bs : List Byte} (short : bs.length ≤ maxInstrBytes) :
    CodeAt (State.reset.place bs) .m64 bs := by
  have bound : bs.length ≤ 15 := short
  have canon (k : Nat) (hk : k < bs.length) : canonical .la48 (0xFFF0 + k) = true := by
    have small : 0xFFF0 + k < 2 ^ (LaBits.la48.bits - 1) := by
      rw [LaBits.bits]
      omega
    simp only [canonical, small, decide_true, Bool.true_or]
  rw [State.reset_place]
  exact (codeAt_loadCode (by omega) canon (by simp [State.reset])).mapOperand

/-- Settles O60: the window of the word stands at `pc` of a state that runs, and the step runs what it decodes to. -/
theorem placedWordIsRun : Obligations.PlacedWordIsRun := by
  intro nbits w i decoded
  obtain ⟨rest, form⟩ := decode_tableWindow decoded
  have short : (tableWindow nbits w).length ≤ maxInstrBytes := (length_tableWindow nbits w).le
  exact stepRunsDecoded _ .m64 _ i rest (State.reset_place_runMode _) short (codeAt_reset_place short) form

end Sys2Proof.Machine
